-- ==== Sys2Proof/Word.lean ====
section
/-! DEFINITION. The block's values (00_scope.md R12): a byte is an unsigned 8-bit value, a byte string a finite
sequence of bytes, first byte first on the wire. -/

namespace Sys2Proof

/-- One byte, 0..255 (R12). -/
abbrev Byte := BitVec 8

/-- A byte string: its head is the byte at index 0, the first one transmitted (R12, R50). -/
abbrev Bytes := List Byte

/-- `ID_MOD` (R7): both id counters and both keyed tables run over 0..223. -/
abbrev idMod : Nat := 224

/-- A packet id or task id the block issues, 0..223 (R23, R24). -/
abbrev IssuedId := Fin idMod

/-- An issued id as the byte that stands on the wire (R57). -/
def idByte (k : IssuedId) : Byte := BitVec.ofNat 8 k.val

end Sys2Proof
end

