-- ==== Sys2Proof/Config.lean ====
section
/-! DEFINITION. What an instance of the block fixes for its life: the open parameters of 00_scope.md R8, the
constraints K1 to K6 of R9 by name, and the model's free values. -/

namespace Sys2Proof

/-- The open parameters of R8, with the defaults it gives five of them. The ranges of `MAX_LEN`, `PID_INIT` and
`TID_INIT` are in the types; the constraints between the values are K1 to K6 (`Params.violation`). -/
structure Params where
  start : Byte
  esc : Byte
  tstart : Byte
  tesc : Byte
  addOpcode : Byte
  ackOpcode : Byte
  abortOpcode : Byte
  stPending : Byte
  stInProgress : Byte
  stResult : Byte
  stError : Byte
  stStopped : Byte
  stAsyncResult : Byte
  stAsyncError : Byte
  stWaiting : Byte
  stOverflow : Byte
  stAlreadyExists : Byte
  stNotFound : Byte
  stIllegalValue : Byte
  sentinelId : Byte
  /-- `MAX_LEN`, 0..32767: the largest logical payload wrapped or accepted. -/
  maxLen : Fin 32768 := 32767
  pidInit : IssuedId := 0
  tidInit : IssuedId := 0
  rbCapInit : Nat := 0
  /-- `RB_CAP_MAX`; `none` is `INF`. -/
  rbCapMax : Option Nat := none
  deriving DecidableEq, Repr, Inhabited

/-- The constraints of R9 on the open parameters, by name. -/
inductive Constraint where
  | k1 | k2 | k3 | k4 | k5 | k6
  deriving DecidableEq, Repr

/-- FREE VALUE (log 2): the values the spec withholds (R8, U1). Of this record only the twenty without a default are
used. -/
opaque Config.withheld : Params

/-- The binding of the open parameters an instance starts with: the withheld values free, the other five at the
defaults R8 gives. A state holds its own binding, so statements about every state hold for every other one too. -/
def Config.binding : Params where
  start := Config.withheld.start
  esc := Config.withheld.esc
  tstart := Config.withheld.tstart
  tesc := Config.withheld.tesc
  addOpcode := Config.withheld.addOpcode
  ackOpcode := Config.withheld.ackOpcode
  abortOpcode := Config.withheld.abortOpcode
  stPending := Config.withheld.stPending
  stInProgress := Config.withheld.stInProgress
  stResult := Config.withheld.stResult
  stError := Config.withheld.stError
  stStopped := Config.withheld.stStopped
  stAsyncResult := Config.withheld.stAsyncResult
  stAsyncError := Config.withheld.stAsyncError
  stWaiting := Config.withheld.stWaiting
  stOverflow := Config.withheld.stOverflow
  stAlreadyExists := Config.withheld.stAlreadyExists
  stNotFound := Config.withheld.stNotFound
  stIllegalValue := Config.withheld.stIllegalValue
  sentinelId := Config.withheld.sentinelId

/-- FREE VALUE (log 14): the byte UNWRAP reads at an index its operand does not have. R149 states UNWRAP for
strings of at least five bytes only. -/
opaque Config.missingByte : Bytes → Nat → Byte

end Sys2Proof
end

