-- ==== Sys2Proof/Machine/Instantiation.lean ====
section
/-! DEFINITION. Instantiating the block: the constraints K1 to K6 (00_scope.md R9), the first of them a binding
breaks, and the reference binding `P_ref` (R10), which only tests and the two word functions of the host use. -/

namespace Sys2Proof

/-- The four marker and token bytes (K1). -/
def Params.markers (c : Params) : List Byte := [c.start, c.esc, c.tstart, c.tesc]

/-- The twelve status bytes in the order of R92 (K4). -/
def Params.statuses (c : Params) : List Byte :=
  [c.stPending, c.stInProgress, c.stResult, c.stError, c.stStopped, c.stAsyncResult, c.stAsyncError,
   c.stWaiting, c.stOverflow, c.stAlreadyExists, c.stNotFound, c.stIllegalValue]

/-- The three envelope opcodes (K5). -/
def Params.opcodes (c : Params) : List Byte := [c.addOpcode, c.ackOpcode, c.abortOpcode]

/-- No byte of the list occurs twice. -/
def distinct : List Byte → Bool
  | [] => true
  | b :: t => !t.contains b && distinct t

/-- K2 for one marker: it is not in 0..223 and is not the sentinel id. -/
def Params.markerClear (c : Params) (m : Byte) : Bool := idMod ≤ m.toNat && m != c.sentinelId

/-- A capacity is within `RB_CAP_MAX` (`none` is `INF`). -/
def Params.capFits (c : Params) (n : Nat) : Bool :=
  match c.rbCapMax with
  | none => true
  | some m => n ≤ m

/-- The first of K1 to K6 (R9) that the binding breaks; `none` when it breaks none. -/
def Params.violation (c : Params) : Option Constraint :=
  if !distinct c.markers then some .k1
  else if !(c.markerClear c.start && c.markerClear c.esc) then some .k2
  else if c.sentinelId.toNat < idMod then some .k3
  else if !distinct c.statuses then some .k4
  else if !distinct c.opcodes then some .k5
  else if !c.capFits c.rbCapInit then some .k6
  else none

/-- The binding passes K1 to K6. -/
abbrev Params.Valid (c : Params) : Prop := c.violation = none

/-- `P_ref` (R10), from general knowledge: used by examples and test vectors and nothing else. `MAX_LEN`, `PID_INIT`,
`TID_INIT`, `RB_CAP_INIT` and `RB_CAP_MAX` are at the defaults of R8. -/
def Params.ref : Params where
  start := 0xFE
  esc := 0xFD
  tstart := 0xEE
  tesc := 0xED
  addOpcode := 0xC1
  ackOpcode := 0xC2
  abortOpcode := 0xC4
  stPending := 0xA1
  stInProgress := 0xA2
  stResult := 0xA3
  stError := 0xA4
  stStopped := 0xA5
  stAsyncResult := 0xA6
  stAsyncError := 0xA7
  stWaiting := 0xA8
  stOverflow := 0xB1
  stAlreadyExists := 0xB2
  stNotFound := 0xB3
  stIllegalValue := 0xB4
  sentinelId := 0xF0

end Sys2Proof
end

