-- ==== Sys2Proof/Machine/Codec.lean ====
section
/-! DEFINITION. The pure codec of 41_codec_ops.md over a binding of the parameters: CRC8, the escape codec, the
length fields, the physical span, and building and opening a frame. -/

namespace Sys2Proof

/-- CRC_ROUND (R140): test bit 7, shift left one, keep 8 bits, exclusive-or 0x31 when the tested bit was 1. -/
def crcRound (c : Byte) : Byte :=
  if c.getLsbD 7 then (c <<< 1) ^^^ 0x31#8 else c <<< 1

/-- `n` CRC rounds, one after another. -/
def crcRounds : Nat → Byte → Byte
  | 0, c => c
  | n + 1, c => crcRounds n (crcRound c)

/-- R8 (R140): the eight rounds of one input byte. -/
def r8 (c : Byte) : Byte := crcRounds 8 c

/-- The fold of R141 over the data bytes from a given register value. -/
def crcFold : Byte → Bytes → Byte
  | c, [] => c
  | c, b :: t => crcFold (r8 (c ^^^ b)) t

/-- CRC8 (R141): seed 0xFF xor the packet id, eight rounds on the seed, then fold the logical bytes. -/
def crc8 (id : Byte) (data : Bytes) : Byte := crcFold (r8 (0xFF#8 ^^^ id)) data

/-- ESC_BYTE (R143). -/
def escByte (c : Params) (b : Byte) : Bytes :=
  if b = c.start then [c.esc, c.tstart]
  else if b = c.esc then [c.esc, c.tesc]
  else [b]

/-- ESCAPE (R144): ESC_BYTE of each byte, in order. -/
def escape (c : Params) : Bytes → Bytes
  | [] => []
  | b :: t => escByte c b ++ escape c t

/-- The logical byte an escape token stands for (R86, R145); `none` for an unknown token. -/
def tokenByte (c : Params) (k : Byte) : Option Byte :=
  if k = c.tstart then some c.start
  else if k = c.tesc then some c.esc
  else none

/-- UNESCAPE (R145): `none` is `BAD_ESCAPE` (a dangling `ESC` or an unknown token). -/
def unescape (c : Params) : Bytes → Option Bytes
  | [] => some []
  | [b] => if b = c.esc then none else some [b]
  | b :: k :: t =>
    if b = c.esc then
      match tokenByte c k with
      | some v => (unescape c t).map (v :: ·)
      | none => none
    else (unescape c (k :: t)).map (b :: ·)

/-- The walk of R147 over the bytes from index `pos` on: `n` logical bytes, two physical bytes where it stands
on an `ESC`; `none` when the bytes run out first. -/
def spanWalk (c : Params) : Nat → Bytes → Nat → Option Nat
  | 0, _, pos => some pos
  | _ + 1, [], _ => none
  | n + 1, b :: t, pos =>
    if b = c.esc then
      match t with
      | [] => none
      | _ :: t' => spanWalk c n t' (pos + 2)
    else spanWalk c n t (pos + 1)

/-- PHYS_SPAN (R147): walk `len` payload bytes and the CRC byte from index `HDR_LEN` = 4; `none` is `NEED_MORE`. -/
def physSpan (c : Params) (buf : Bytes) (len : Nat) : Option Nat :=
  spanWalk c (len + 1) (buf.drop 4) 4

/-- `LEN_LOW7` of a declared length (R82). -/
def lenLow (n : Nat) : Byte := BitVec.ofNat 8 (n &&& 0x7F)

/-- `LEN_HIGH` of a declared length (R82). -/
def lenHigh (n : Nat) : Byte := BitVec.ofNat 8 ((n >>> 7) &&& 0xFF)

/-- The declared length (R82): `LEN_LOW7[6:0] + 128 * LEN_HIGH`. -/
def declaredLen (l0 l1 : Byte) : Nat := (l0 &&& 0x7F#8).toNat + 128 * l1.toNat

/-- Phase 3's test (R184): the declared length, or `none` when bit 7 of `LEN_LOW7` is set or it exceeds `MAX_LEN`. -/
def acceptedLen (c : Params) (l0 l1 : Byte) : Option Nat :=
  if l0.getLsbD 7 then none
  else if c.maxLen.val < declaredLen l0 l1 then none
  else some (declaredLen l0 l1)

/-- The frame of R80 with a given CRC byte. -/
def frameBytes (c : Params) (id : Byte) (payload : Bytes) (crc : Byte) : Bytes :=
  [c.start, lenLow payload.length, lenHigh payload.length, id] ++ escape c payload ++ escByte c crc

/-- The string WRAP_ID returns (R148); its length requirement is checked by its callers. -/
def wrapFrame (c : Params) (id : Byte) (payload : Bytes) : Bytes :=
  frameBytes c id payload (crc8 id payload)

/-- The three results of UNWRAP (R149). -/
inductive Unwrapped where
  | ok (id : Byte) (payload : Bytes)
  | badEscape (id : Byte)
  | crcMismatch (id : Byte)
  deriving DecidableEq, Repr

/-- The byte of a frame at an index; a free value where the frame is too short to have it (log 14). -/
def frameByte (f : Bytes) (i : Nat) : Byte := f.getD i (Config.missingByte f i)

/-- UNWRAP (R149): unescape first, then check the CRC on the logical bytes. -/
def unwrap (c : Params) (f : Bytes) : Unwrapped :=
  let len := declaredLen (frameByte f 1) (frameByte f 2)
  let id := frameByte f 3
  match unescape c (f.drop 4) with
  | none => .badEscape id
  | some body =>
    if body.length ≠ len + 1 then .crcMismatch id
    else if crc8 id (body.take len) = body.getD len 0 then .ok id (body.take len)
    else .crcMismatch id

end Sys2Proof
end

