-- ==== Sys2Proof/Machine/Operands.lean ====
section
/-! DEFINITION. Operand forms: the FLAGS byte, the three envelopes, the status classes, and the format and
routing key of a received payload. -/

namespace Sys2Proof

/-- The FLAGS bits a SEND transmits (R90, R99, U5): bits 2..0 of its operand, bits 7..3 ignored. -/
def sentFlags (flags : Byte) : BitVec 3 := flags.setWidth 3

/-- The FLAGS byte of an envelope (R90): bits 7..3 are 0. -/
def flagsByte (flags : BitVec 3) : Byte := flags.setWidth 8

/-- The add-task envelope (R89). -/
def addEnvelope (c : Params) (flags : BitVec 3) (tid : IssuedId) (user : Bytes) : Bytes :=
  [c.addOpcode, flagsByte flags, idByte tid] ++ user

/-- The acknowledgement envelope (R91). -/
def ackEnvelope (c : Params) (key : Byte) : Bytes := [c.ackOpcode, key]

/-- The abort envelope (R93). -/
def abortEnvelope (c : Params) : Bytes := [c.abortOpcode]

/-- The asynchronous statuses (R92), which carry an explicit task id. -/
def isAsync (c : Params) (status : Byte) : Bool := status == c.stAsyncResult || status == c.stAsyncError

/-- The terminal statuses (R92), which are acknowledged. -/
def isTerminal (c : Params) (status : Byte) : Bool := status == c.stResult || status == c.stError

/-- The completing statuses (R192): terminal and asynchronous. -/
def isCompleting (c : Params) (status : Byte) : Bool := isTerminal c status || isAsync c status

/-- One of the twelve named statuses (R92). -/
def isKnown (c : Params) (status : Byte) : Bool := c.statuses.contains status

/-- The four rejects and the four progress reports: named and not completing (R92, R194). -/
def isInformational (c : Params) (status : Byte) : Bool := isKnown c status && !isCompleting c status

/-- Format choice and routing key (R190, R191) of a payload `status :: tail` received under packet id `id`:
the key and the remaining payload, or `none` for an asynchronous status with no task-id byte. -/
def route (c : Params) (id status : Byte) (tail : Bytes) : Option (Byte × Bytes) :=
  if isAsync c status then
    match tail with
    | [] => none
    | key :: rest => some (key, rest)
  else some (id, tail)

/-- Whether the frame is acknowledged (R195): not out-of-band, and terminal. -/
def needsAck (c : Params) (id status : Byte) : Bool := id != c.sentinelId && isTerminal c status

end Sys2Proof
end

