-- ==== Sys2Proof/Syntax.lean ====
section
/-! DEFINITION. The block's operations and wire formats: one constructor per row of spec/opcode_table.json.
Wire-format rows carry the fields of the format, operation rows their operands. Where the spec bounds a key to
0..223 the operand's type is `IssuedId`. -/

namespace Sys2Proof

inductive Instr where
  /-- FRAME (R80): a frame with a non-empty payload; `LEN` is the payload's length. -/
  | frame (id : Byte) (payload : Bytes) (crc : Byte)
  /-- FRAME_EMPTY (R95): a frame with `LEN` = 0. -/
  | frameEmpty (id crc : Byte)
  /-- ESC_START (R86): the two bytes `ESC TSTART`. -/
  | escStart
  /-- ESC_ESC (R86): the two bytes `ESC TESC`. -/
  | escEsc
  /-- ENV_ADD (R89, R90): the add-task envelope; bit 0 of `flags` need-result, bit 1 ignore-error, bit 2 async. -/
  | envAdd (flags : BitVec 3) (tid : IssuedId) (user : Bytes)
  /-- ENV_ACK (R91): the acknowledgement envelope. -/
  | envAck (key : Byte)
  /-- ENV_ABORT (R93): the abort envelope. -/
  | envAbort
  /-- RSP_SYNC (R94): a payload whose status is not asynchronous, in a frame with packet id `id`. -/
  | rspSync (id status : Byte) (rest : Bytes)
  /-- RSP_ASYNC (R94): a payload with an asynchronous status and its task-id byte. -/
  | rspAsync (id status tid : Byte) (rest : Bytes)
  /-- The twelve statuses (R92): a payload that begins with the status, then the bytes `tail`. -/
  | stPending (id : Byte) (tail : Bytes)
  | stInProgress (id : Byte) (tail : Bytes)
  | stResult (id : Byte) (tail : Bytes)
  | stError (id : Byte) (tail : Bytes)
  | stStopped (id : Byte) (tail : Bytes)
  | stAsyncResult (id : Byte) (tail : Bytes)
  | stAsyncError (id : Byte) (tail : Bytes)
  | stWaiting (id : Byte) (tail : Bytes)
  | stOverflow (id : Byte) (tail : Bytes)
  | stAlreadyExists (id : Byte) (tail : Bytes)
  | stNotFound (id : Byte) (tail : Bytes)
  | stIllegalValue (id : Byte) (tail : Bytes)
  /-- SEND (R160). -/
  | send (flags : Byte) (user : Bytes)
  /-- ABORT (R161). -/
  | abort
  /-- RX_CHUNK (R180). -/
  | rxChunk (bytes : Bytes)
  /-- RESET (R240). -/
  | reset
  /-- RB.APPEND (R121). -/
  | rbAppend (bytes : Bytes)
  /-- RB.GET (R123). -/
  | rbGet (i : Nat)
  /-- RB.TAKE (R124). -/
  | rbTake (n : Nat)
  /-- RB.SKIP (R125). -/
  | rbSkip (n : Nat)
  /-- RB.FIND (R126); `start` is the operand `from`. -/
  | rbFind (b : Byte) (start : Nat)
  /-- RB.SIZE (R127). -/
  | rbSize
  /-- RB.ISEMPTY (R128). -/
  | rbIsEmpty
  /-- CRC8 (R141). -/
  | crc8 (id : Byte) (data : Bytes)
  /-- ESC_BYTE (R143). -/
  | escByte (b : Byte)
  /-- ESCAPE (R144). -/
  | escape (str : Bytes)
  /-- UNESCAPE (R145). -/
  | unescape (p : Bytes)
  /-- PHYS_SPAN (R147). -/
  | physSpan (buf : Bytes) (len : Nat)
  /-- WRAP_ID (R148). -/
  | wrapId (id : Byte) (payload : Bytes)
  /-- WRAP_NEXT (R152). -/
  | wrapNext (payload : Bytes)
  /-- UNWRAP (R149). -/
  | unwrap (f : Bytes)
  /-- ALLOC_PID (R150). -/
  | allocPid
  /-- ALLOC_TID (R151). -/
  | allocTid
  /-- HIST.PUT (R163). -/
  | histPut (pid : IssuedId) (f : Bytes)
  /-- HIST.TAKE (R164). -/
  | histTake (id : Byte)
  /-- PEND.PUT (R165). -/
  | pendPut (tid : IssuedId)
  /-- PEND.TAKE (R166). -/
  | pendTake (key : Byte)
  /-- TX_NEG (R167). -/
  | txNeg (id : Byte)
  /-- TX_ACK (R168). -/
  | txAck (key : Byte)
  /-- RETRANSMIT (R169). -/
  | retransmit (id : Byte)
  /-- PARSE_STEP (R181). -/
  | parseStep
  /-- DISPATCH (R189) of the non-empty payload `status :: tail`. -/
  | dispatch (id status : Byte) (tail : Bytes)
  /-- COMPLETE (R193). -/
  | complete (key status : Byte) (rest : Bytes)
  deriving DecidableEq, Repr

end Sys2Proof
end

