-- ==== Sys2Proof/WellFormed.lean ====
section
/-! DEFINITION. Which terms of `Instr` are instances of their row under a binding of the parameters: the operand
conditions of the wire formats and of the operations whose rules state one. -/

namespace Sys2Proof

/-- The operand conditions of each row. A wire-format term is well-formed exactly when it has an encoding that
is its row's; an operation whose rule accepts (or refuses) every operand has none. -/
def Instr.wellFormed (c : Params) : Instr → Bool
  | .frame _ payload _ => 1 ≤ payload.length && payload.length ≤ c.maxLen.val
  | .frameEmpty _ _ => true
  | .escStart => true
  | .escEsc => true
  | .envAdd _ _ user => 3 + user.length ≤ c.maxLen.val
  | .envAck _ => 2 ≤ c.maxLen.val
  | .envAbort => 1 ≤ c.maxLen.val
  | .rspSync _ status rest => !isAsync c status && 1 + rest.length ≤ c.maxLen.val
  | .rspAsync _ status _ rest => isAsync c status && 2 + rest.length ≤ c.maxLen.val
  | .stPending _ tail => 1 + tail.length ≤ c.maxLen.val
  | .stInProgress _ tail => 1 + tail.length ≤ c.maxLen.val
  | .stResult _ tail => 1 + tail.length ≤ c.maxLen.val
  | .stError _ tail => 1 + tail.length ≤ c.maxLen.val
  | .stStopped _ tail => 1 + tail.length ≤ c.maxLen.val
  | .stAsyncResult _ tail => 1 + tail.length ≤ c.maxLen.val
  | .stAsyncError _ tail => 1 + tail.length ≤ c.maxLen.val
  | .stWaiting _ tail => 1 + tail.length ≤ c.maxLen.val
  | .stOverflow _ tail => 1 + tail.length ≤ c.maxLen.val
  | .stAlreadyExists _ tail => 1 + tail.length ≤ c.maxLen.val
  | .stNotFound _ tail => 1 + tail.length ≤ c.maxLen.val
  | .stIllegalValue _ tail => 1 + tail.length ≤ c.maxLen.val
  | .send _ _ => true
  | .abort => true
  | .rxChunk _ => true
  | .reset => true
  | .rbAppend _ => true
  | .rbGet _ => true
  | .rbTake _ => true
  | .rbSkip _ => true
  | .rbFind _ _ => true
  | .rbSize => true
  | .rbIsEmpty => true
  | .crc8 _ _ => true
  | .escByte _ => true
  | .escape _ => true
  | .unescape _ => true
  | .physSpan buf len => buf.head? == some c.start && len ≤ 32767
  | .wrapId _ _ => true
  | .wrapNext _ => true
  | .unwrap f => f.head? == some c.start && 5 ≤ f.length && !(f.getD 1 0).getLsbD 7
  | .allocPid => true
  | .allocTid => true
  | .histPut _ _ => true
  | .histTake _ => true
  | .pendPut _ => true
  | .pendTake _ => true
  | .txNeg _ => true
  | .txAck _ => true
  | .retransmit _ => true
  | .parseStep => true
  | .dispatch _ _ _ => true
  | .complete _ status _ => isCompleting c status

end Sys2Proof
end

