-- ==== Sys2Proof/Decode.lean ====
section
/-! DEFINITION. The decoder of the wire formats (30_encoding.md), total on any bytes and rejecting by name, and
after it the encoder written from the same table. A byte string is read in one of five contexts, because each
format's selecting field is its own (R100): the byte stream, the escaped span, an envelope, a received payload by
format, a received payload by status. Operations are invoked, not decoded from bytes (R100): they have no word. -/

namespace Sys2Proof

/-- Where a byte string stands, which settles the formats it can be (R100). A received payload is read under the
packet id of its frame (R191). -/
inductive WireContext where
  | stream
  | escaped
  | envelope
  | response (id : Byte)
  | status (id : Byte)
  deriving DecidableEq, Repr

/-- Why a byte string is no instruction of its context. -/
inductive DecodeError where
  /-- no `START` at index 0 (R81) -/
  | noStart
  /-- fewer bytes than the format needs (R54, R96) -/
  | needMore
  /-- `LEN_LOW7` bit 7 set, or a length beyond `MAX_LEN` (R97 (b)) -/
  | badLength
  /-- an invalid escape in a frame (R97 (c)) -/
  | badEscape
  /-- no `ESC` at index 0 of an escape sequence (R86) -/
  | noEscape
  /-- `ESC` followed by an unknown token (R86) -/
  | badToken
  /-- an empty payload is no envelope and no response (R95) -/
  | emptyPayload
  /-- logical byte 0 is none of the three envelope opcodes (R99) -/
  | unknownOpcode
  /-- an envelope of the wrong length for its opcode (R89, R91, R93) -/
  | envelopeLength
  /-- FLAGS bits 7..3 not zero (R90, R99) -/
  | reservedFlags
  /-- a TASK_ID outside 0..223 in an add-task envelope (R89) -/
  | badTaskId
  /-- an asynchronous status with no task-id byte (R97 (f)) -/
  | malformedAsync
  /-- a status byte that is none of the twelve (R97 (i)) -/
  | unknownStatus
  deriving DecidableEq, Repr

/-- The answer of the decoder: an instruction and the bytes after it, or a rejection by name. -/
inductive Decoded where
  | ok (i : Instr) (rest : Bytes)
  | reject (e : DecodeError)
  deriving DecidableEq, Repr

/-- A frame's instruction: FRAME_EMPTY is selected by `LEN` = 0 (R100). -/
def frameInstr (id : Byte) (payload : Bytes) (crc : Byte) : Instr :=
  match payload with
  | [] => .frameEmpty id crc
  | b :: t => .frame id (b :: t) crc

/-- One frame at the head of a byte stream, in the order of R96. The CRC byte is read, not checked. -/
def decodeFrame (c : Params) (bs : Bytes) : Decoded :=
  if bs.head? ≠ some c.start then .reject .noStart
  else if bs.length < 5 then .reject .needMore
  else
    match acceptedLen c (bs.getD 1 0) (bs.getD 2 0) with
    | none => .reject .badLength
    | some len =>
      match physSpan c bs len with
      | none => .reject .needMore
      | some n =>
        match unescape c ((bs.take n).drop 4) with
        | none => .reject .badEscape
        | some body => .ok (frameInstr (bs.getD 3 0) (body.take len) (body.getD len 0)) (bs.drop n)

/-- One escape sequence (R86). -/
def decodeEscape (c : Params) (bs : Bytes) : Decoded :=
  match bs with
  | [] => .reject .needMore
  | e :: t =>
    if e ≠ c.esc then .reject .noEscape
    else
      match t with
      | [] => .reject .needMore
      | k :: rest =>
        if k = c.tstart then .ok .escStart rest
        else if k = c.tesc then .ok .escEsc rest
        else .reject .badToken

/-- The add-task envelope after its opcode (R89, R90). -/
def decodeAdd (t : Bytes) : Decoded :=
  match t with
  | flags :: tid :: user =>
    if flags &&& 0xF8#8 ≠ 0#8 then .reject .reservedFlags
    else if h : tid.toNat < idMod then .ok (.envAdd (flags.setWidth 3) ⟨tid.toNat, h⟩ user) []
    else .reject .badTaskId
  | _ => .reject .envelopeLength

/-- A whole logical payload as one of the three envelopes (R89, R91, R93). -/
def decodeEnvelope (c : Params) (bs : Bytes) : Decoded :=
  if c.maxLen.val < bs.length then .reject .badLength
  else
    match bs with
    | [] => .reject .emptyPayload
    | op :: t =>
      if op = c.addOpcode then decodeAdd t
      else if op = c.ackOpcode then
        match t with
        | [key] => .ok (.envAck key) []
        | _ => .reject .envelopeLength
      else if op = c.abortOpcode then
        match t with
        | [] => .ok .envAbort []
        | _ => .reject .envelopeLength
      else .reject .unknownOpcode

/-- A whole received payload by its format (R94, R190). -/
def decodeResponse (c : Params) (id : Byte) (bs : Bytes) : Decoded :=
  if c.maxLen.val < bs.length then .reject .badLength
  else
    match bs with
    | [] => .reject .emptyPayload
    | st :: t =>
      if isAsync c st then
        match t with
        | [] => .reject .malformedAsync
        | tid :: rest => .ok (.rspAsync id st tid rest) []
      else .ok (.rspSync id st t) []

/-- A received payload's instruction by its status byte (R92). -/
def statusInstr (c : Params) (id st : Byte) (t : Bytes) : Option Instr :=
  if st = c.stPending then some (.stPending id t)
  else if st = c.stInProgress then some (.stInProgress id t)
  else if st = c.stResult then some (.stResult id t)
  else if st = c.stError then some (.stError id t)
  else if st = c.stStopped then some (.stStopped id t)
  else if st = c.stAsyncResult then some (.stAsyncResult id t)
  else if st = c.stAsyncError then some (.stAsyncError id t)
  else if st = c.stWaiting then some (.stWaiting id t)
  else if st = c.stOverflow then some (.stOverflow id t)
  else if st = c.stAlreadyExists then some (.stAlreadyExists id t)
  else if st = c.stNotFound then some (.stNotFound id t)
  else if st = c.stIllegalValue then some (.stIllegalValue id t)
  else none

/-- A whole received payload by its status byte (R92). -/
def decodeStatus (c : Params) (id : Byte) (bs : Bytes) : Decoded :=
  if c.maxLen.val < bs.length then .reject .badLength
  else
    match bs with
    | [] => .reject .emptyPayload
    | st :: t =>
      match statusInstr c id st t with
      | some i => .ok i []
      | none => .reject .unknownStatus

/-- The decoder. -/
def decode (c : Params) : WireContext → Bytes → Decoded
  | .stream, bs => decodeFrame c bs
  | .escaped, bs => decodeEscape c bs
  | .envelope, bs => decodeEnvelope c bs
  | .response id, bs => decodeResponse c id bs
  | .status id, bs => decodeStatus c id bs

/-- The encoder: the context an instruction's bytes stand in and the bytes, written from the encodings of
30_encoding.md; `none` for an operation, whose row has the encoding "none" (R100). -/
def encode (c : Params) : Instr → Option (WireContext × Bytes)
  | .frame id payload crc => some (.stream, frameBytes c id payload crc)
  | .frameEmpty id crc => some (.stream, [c.start, 0, 0, id] ++ escByte c crc)
  | .escStart => some (.escaped, [c.esc, c.tstart])
  | .escEsc => some (.escaped, [c.esc, c.tesc])
  | .envAdd flags tid user => some (.envelope, addEnvelope c flags tid user)
  | .envAck key => some (.envelope, ackEnvelope c key)
  | .envAbort => some (.envelope, abortEnvelope c)
  | .rspSync id status rest => some (.response id, status :: rest)
  | .rspAsync id status tid rest => some (.response id, status :: tid :: rest)
  | .stPending id tail => some (.status id, c.stPending :: tail)
  | .stInProgress id tail => some (.status id, c.stInProgress :: tail)
  | .stResult id tail => some (.status id, c.stResult :: tail)
  | .stError id tail => some (.status id, c.stError :: tail)
  | .stStopped id tail => some (.status id, c.stStopped :: tail)
  | .stAsyncResult id tail => some (.status id, c.stAsyncResult :: tail)
  | .stAsyncError id tail => some (.status id, c.stAsyncError :: tail)
  | .stWaiting id tail => some (.status id, c.stWaiting :: tail)
  | .stOverflow id tail => some (.status id, c.stOverflow :: tail)
  | .stAlreadyExists id tail => some (.status id, c.stAlreadyExists :: tail)
  | .stNotFound id tail => some (.status id, c.stNotFound :: tail)
  | .stIllegalValue id tail => some (.status id, c.stIllegalValue :: tail)
  | .send _ _ => none
  | .abort => none
  | .rxChunk _ => none
  | .reset => none
  | .rbAppend _ => none
  | .rbGet _ => none
  | .rbTake _ => none
  | .rbSkip _ => none
  | .rbFind _ _ => none
  | .rbSize => none
  | .rbIsEmpty => none
  | .crc8 _ _ => none
  | .escByte _ => none
  | .escape _ => none
  | .unescape _ => none
  | .physSpan _ _ => none
  | .wrapId _ _ => none
  | .wrapNext _ => none
  | .unwrap _ => none
  | .allocPid => none
  | .allocTid => none
  | .histPut _ _ => none
  | .histTake _ => none
  | .pendPut _ => none
  | .pendTake _ => none
  | .txNeg _ => none
  | .txAck _ => none
  | .retransmit _ => none
  | .parseStep => none
  | .dispatch _ _ _ => none
  | .complete _ _ _ => none

/-- The context a word of the opcode table stands in, told by its first byte under the table's own `p_ref`
values (log 19). A received payload is read under packet id 0, since the table's word has no place for it. -/
def tableContext (c : Params) (b : Byte) : WireContext :=
  if b = c.start then .stream
  else if b = c.esc then .escaped
  else if c.opcodes.contains b then .envelope
  else if isKnown c b then .status 0
  else .response 0

/-- The bytes of a table word: byte `k` is bits `8k+7 .. 8k`. -/
def tableBytes (nbits w : Nat) : Bytes :=
  (List.range ((nbits + 7) / 8)).map fun k => BitVec.ofNat 8 (w >>> (8 * k))

/-- The bytes above `nbits`, all 0: as many as the frame's declared length can need (R88), up to the fixed fields
of an escape sequence or an envelope, none where the format has no bytes beyond those given. -/
def tablePadding (c : Params) (given : Bytes) : Bytes :=
  match tableContext c (given.getD 0 0) with
  | .stream => List.replicate (declaredLen (given.getD 1 0) (given.getD 2 0) + 6) 0
  | .escaped => List.replicate (2 - given.length) 0
  | .envelope =>
    if given.getD 0 0 = c.addOpcode then List.replicate (3 - given.length) 0
    else if given.getD 0 0 = c.ackOpcode then List.replicate (2 - given.length) 0
    else []
  | .response _ => []
  | .status _ => []

/-- The instruction the decoder reads from a word of the opcode table, under `P_ref` (log 19). -/
def decodeTableWord (nbits w : Nat) : Option Instr :=
  let given := tableBytes nbits w
  if given = [] then none
  else
    match decode Params.ref (tableContext Params.ref (given.getD 0 0)) (given ++ tablePadding Params.ref given) with
    | .ok i _ => some i
    | .reject _ => none

end Sys2Proof
end

