-- ==== Sys2Proof/Machine/State.lean ====
section
/-! DEFINITION. The state of the block (10_state.md R20 to R35) as plain data, and its value after reset. -/

namespace Sys2Proof.Machine

/-- The storage of the ring buffer: (physical index, byte) cells, indices strictly rising, no cell holding what
an unlisted index reads as. -/
abbrev Memory := List Host.Cell

/-- What an unlisted index of `rb_mem` reads as. R30, R35: unspecified. DESIGN CHOICE 0x00 (log 9). -/
def Memory.unlisted : Byte := 0

/-- The canonical form of the storage. -/
def Memory.wf : Memory → Bool
  | [] => true
  | [(_, v)] => v != Memory.unlisted
  | (k, v) :: (k', v') :: t => v != Memory.unlisted && k < k' && Memory.wf ((k', v') :: t)

/-- The faults of R213, codes 1 to 3, with what each records. -/
inductive FaultInfo where
  /-- `BoundsError`: the operand and `|rb|`. -/
  | boundsError (operand size : Nat)
  /-- `RingOverflow`: `|rb|` and the number of bytes appended. -/
  | ringOverflow (size n : Nat)
  /-- `TransportFault`: the frame not written. -/
  | transportFault (f : Bytes)
  deriving DecidableEq, Repr

/-- The refusals of R211, codes 4 and 5, with what each records. -/
inductive RefuseReason where
  /-- `LengthError`: the length of the logical payload. -/
  | lengthError (len : Nat)
  /-- `BadParameters`: which constraint of R9 the binding breaks. -/
  | badParameters (k : Constraint)
  deriving DecidableEq, Repr

/-- The operations that can be refused (R211): three with `LengthError`, the instantiation with `BadParameters`. -/
inductive RefusedOp where
  | send | wrapId | wrapNext | instantiation
  deriving DecidableEq, Repr

/-- The events of R213. -/
inductive Event where
  | garbage (n : Nat)
  | badLength (l0 l1 : Byte)
  | crcMismatch (id : Byte)
  | badEscape (id : Byte)
  | retransmit (id : Byte)
  | unknownRetransmit (id : Byte)
  | malformedAsync (id status : Byte)
  | complete (key status : Byte) (rest : Bytes)
  | unmatched (key status : Byte)
  | status (key status : Byte) (rest : Bytes)
  | unknownStatus (key status : Byte) (rest : Bytes)
  | fault (f : FaultInfo)
  | refused (op : RefusedOp) (reason : RefuseReason)
  deriving DecidableEq, Repr

/-- The two results of PARSE_STEP (R181). -/
inductive Turn where
  | wait | cont
  deriving DecidableEq, Repr

/-- What an operation returns to its invoker (R13 `return v`, R210, R211). -/
inductive Result where
  | none
  | byte (b : Byte)
  | bytes (bs : Bytes)
  | number (n : Nat)
  | flag (b : Bool)
  /-- RB.FIND: a logical offset or NONE. -/
  | offset (o : Option Nat)
  /-- HIST.TAKE: a frame or NONE. -/
  | frame (f : Option Bytes)
  /-- UNESCAPE: OK(s), or BAD_ESCAPE (`none`). -/
  | unescaped (s : Option Bytes)
  /-- PHYS_SPAN: a length, or NEED_MORE (`none`). -/
  | span (n : Option Nat)
  /-- WRAP_NEXT: the id and the frame. -/
  | wrapped (id : Byte) (f : Bytes)
  | unwrapped (u : Unwrapped)
  | turn (t : Turn)
  | fault (f : FaultInfo)
  | refused (r : RefuseReason)
  deriving DecidableEq, Repr

/-- The agents that take steps of the block (R6): a host sender, or the receiver. -/
inductive Agent where
  | host | receiver
  deriving DecidableEq, Repr

/-- The state of the block. The fields down to `rbCap` are the spec's (R20), `tx` and `ev` the spec's observation
logs (R33); the rest is the model's own (INVENTORY.md). -/
structure State where
  /-- The binding of the open parameters, fixed for life; no step writes it (log 1). -/
  cfg : Params
  /-- `pid_ctr` (R23): the packet id the next ALLOC_PID returns. -/
  pidCtr : IssuedId
  /-- `tid_ctr` (R24): the task id the next ALLOC_TID returns. -/
  tidCtr : IssuedId
  /-- `FAULTS` (R25). -/
  faults : BitVec 3
  /-- `HIST` (R27): `none` is EMPTY. -/
  hist : Vector (Option Bytes) 224
  /-- `PEND` (R28). -/
  pend : Vector Bool 224
  /-- `rb_mem` (R30). -/
  rbMem : Memory
  /-- `rb_head` (R30). -/
  rbHead : Nat
  /-- `rb_tail` (R30). -/
  rbTail : Nat
  /-- `rb_cap` (R30). -/
  rbCap : Nat
  /-- `tx` (R33): the frames handed to TxWrite, oldest first. -/
  tx : List Bytes
  /-- `ev` (R33, R212): the events, oldest first. -/
  ev : List Event
  /-- What the operation that ran last returned to its invoker (log 7). -/
  ret : Result
  /-- An RX_CHUNK is in progress (R64, log 6). -/
  rxBusy : Bool
  /-- Operations invoked and not yet run, oldest first: the host's and direct callers', and, as RX_CHUNKs, the deliveries
  waiting for the receiver (R215). Each agent takes its own oldest (R60, log 4). -/
  cmds : List Instr
  /-- Which agent moves at each coming step; empty: the default order (log 5). -/
  sched : List Agent
  /-- Whether each coming TxWrite succeeds; empty: all do (R170, log 8). -/
  link : List Bool
  deriving DecidableEq, Repr

/-- A machine stop that is no fault of the spec's own (those are taken, and the run goes on). -/
inductive Fault where
  /-- Raised by RX_CHUNK invoked while another RX_CHUNK is in progress: the stuck state of U6 (R64). Safe. -/
  | overlappingRxChunk
  deriving DecidableEq, Repr

/-- Why the model gives no next state. -/
inductive Refusal where
  /-- Raised by an arm of `exec` that has no meaning yet. Safe. -/
  | notModelled (mnemonic : String)
  /-- Raised by `step` on an instance whose instantiation was refused with `BadParameters` (R9, R211, U17): there is no
  block to take a step (log 3). Safe. -/
  | badParameters (k : Constraint)
  deriving DecidableEq, Repr

/-- Every piece of state at its value in the table of R35, for an instance with the binding `c`. -/
def State.fresh (c : Params) : State where
  cfg := c
  pidCtr := c.pidInit
  tidCtr := c.tidInit
  faults := 0
  hist := Vector.replicate 224 none
  pend := Vector.replicate 224 false
  rbMem := []
  rbHead := 0
  rbTail := 0
  rbCap := c.rbCapInit
  tx := []
  ev := []
  ret := .none
  rxBusy := false
  cmds := []
  sched := []
  link := []

/-- The machine right after reset (R35), with nothing invoked and the withheld values left free (log 2). -/
def State.reset : State := State.fresh Config.binding

end Sys2Proof.Machine
end

