-- ==== Sys2Proof/Machine/Flags.lean ====
section
/-! DEFINITION. The sticky fault flags (10_state.md R25) and the codes of 60_exceptions.md R213. -/

namespace Sys2Proof.Machine

/-- `F_PEND_OVERRUN`, bit 0 of `FAULTS`. -/
def fPendOverrun : BitVec 3 := 0b001#3

/-- `F_RB_BOUNDS`, bit 1 of `FAULTS`. -/
def fRbBounds : BitVec 3 := 0b010#3

/-- `F_RB_OVERFLOW`, bit 2 of `FAULTS`. -/
def fRbOverflow : BitVec 3 := 0b100#3

/-- The `FAULTS` bits a fault sets (R213): `TransportFault` has none. -/
def FaultInfo.flag : FaultInfo → BitVec 3
  | .boundsError _ _ => fRbBounds
  | .ringOverflow _ _ => fRbOverflow
  | .transportFault _ => 0#3

/-- The code of a fault (R213). -/
def FaultInfo.code : FaultInfo → Nat
  | .boundsError _ _ => 1
  | .ringOverflow _ _ => 2
  | .transportFault _ => 3

/-- The code of a refusal's reason (R213). -/
def RefuseReason.code : RefuseReason → Nat
  | .lengthError _ => 4
  | .badParameters _ => 5

/-- The code of an event (R213). -/
def Event.code : Event → Nat
  | .garbage _ => 16
  | .badLength _ _ => 17
  | .crcMismatch _ => 18
  | .badEscape _ => 19
  | .retransmit _ => 20
  | .unknownRetransmit _ => 21
  | .malformedAsync _ _ => 22
  | .complete _ _ _ => 23
  | .unmatched _ _ => 24
  | .status _ _ _ => 25
  | .unknownStatus _ _ _ => 26
  | .fault _ => 32
  | .refused _ _ => 33

/-- Set flag bits; a set bit stays set (R25). -/
def State.setFlags (s : State) (m : BitVec 3) : State := { s with faults := s.faults ||| m }

end Sys2Proof.Machine
end

