-- ==== Sys2Proof/Machine/Ops.lean ====
section
/-! DEFINITION. The named operations over the state that the meanings share: events, faults and refusals, the
storage and the ring buffer, the id counters, the two tables, and writing to the transport. -/

namespace Sys2Proof.Machine

open Sys2Proof

/-- What an operation answers beside the state it leaves: a value, a fault it raised, or a refusal. -/
inductive Reply (α : Type) where
  | ok (a : α)
  | fault (f : FaultInfo)
  | refused (r : RefuseReason)
  deriving DecidableEq, Repr

/-! ### Events, faults, refusals (60_exceptions.md) -/

/-- `Emit` (R212). -/
def State.emit (s : State) (e : Event) : State := { s with ev := s.ev ++ [e] }

/-- Record what an operation returns to its invoker (log 7). -/
def State.setRet (s : State) (r : Result) : State := { s with ret := r }

/-- Mark an RX_CHUNK as in progress, or as ended (log 6). -/
def State.setBusy (s : State) (b : Bool) : State := { s with rxBusy := b }

/-- Set the operations still to run (log 4). -/
def State.setCmds (s : State) (l : List Instr) : State := { s with cmds := l }

/-- Set the coming moves (log 5). -/
def State.setSched (s : State) (l : List Agent) : State := { s with sched := l }

/-- TAKING A FAULT (R210): the flag the fault names is set and the FAULT event appended; earlier changes stay,
and nothing else is saved or transferred. The caller hands the fault to its invoker. -/
def State.takeFault (s : State) (f : FaultInfo) : State := (s.setFlags f.flag).emit (.fault f)

/-- `raise` (R13, R210). -/
def raise {α : Type} (f : FaultInfo) (s : State) : State × Reply α := (s.takeFault f, .fault f)

/-- A failed `require` (R211): only the REFUSED event is appended. -/
def refuse {α : Type} (op : RefusedOp) (r : RefuseReason) (s : State) : State × Reply α :=
  (s.emit (.refused op r), .refused r)

/-- An operation that returns a value ends: the value goes to the invoker. -/
def finish (s : State) (r : Result) : Host.Outcome State Fault Refusal := .next (s.setRet r)

/-- An operation that may fault or be refused ends: its value, fault or reason goes to the invoker (R210, R211);
the next operation runs normally on the state as it stands (log 17). -/
def conclude {α : Type} (toResult : α → Result) : State × Reply α → Host.Outcome State Fault Refusal
  | (s, .ok a) => finish s (toResult a)
  | (s, .fault f) => finish s (.fault f)
  | (s, .refused r) => finish s (.refused r)

/-! ### The storage of the ring buffer (10_state.md R30) -/

/-- The byte at a physical index. -/
def Memory.read : Memory → Nat → Byte
  | [], _ => Memory.unlisted
  | (k, v) :: t, a => if k = a then v else Memory.read t a

/-- The storage without the cell of a physical index. -/
def Memory.erase : Memory → Nat → Memory
  | [], _ => []
  | (k, w) :: t, a => if k = a then Memory.erase t a else (k, w) :: Memory.erase t a

/-- The storage with a cell put in before the first higher index. -/
def Memory.place : Memory → Nat → Byte → Memory
  | [], a, v => [(a, v)]
  | (k, w) :: t, a, v => if a < k then (a, v) :: (k, w) :: t else (k, w) :: Memory.place t a v

/-- Store a byte at a physical index, keeping the canonical form. -/
def Memory.write (m : Memory) (a : Nat) (v : Byte) : Memory :=
  if v = Memory.unlisted then m.erase a else (m.erase a).place a v

/-- Store a byte string from a physical index on. -/
def Memory.writeBytes : Memory → Nat → Bytes → Memory
  | m, _, [] => m
  | m, a, b :: t => Memory.writeBytes (Memory.write m a b) (a + 1) t

/-- The byte string at physical indices `a` to `a + n - 1`. -/
def Memory.readBytes (m : Memory) (a n : Nat) : Bytes := (List.range' a n).map (Memory.read m)

/-! ### The ring buffer (40_ringbuffer_ops.md) -/

/-- `RB.SIZE`'s value: `rb_tail - rb_head` (R31, R127). -/
def State.rbSize (s : State) : Nat := s.rbTail - s.rbHead

/-- The logical view `rb` (R29, R31): `rb_mem[rb_head : rb_tail)`. -/
def State.rb (s : State) : Bytes := s.rbMem.readBytes s.rbHead s.rbSize

/-- Set the physical ring buffer. -/
def State.setRing (s : State) (mem : Memory) (head tail cap : Nat) : State :=
  { s with rbMem := mem, rbHead := head, rbTail := tail, rbCap := cap }

/-- The capacity a growth gives (R122): doubling plus the requested size, clamped to `RB_CAP_MAX`. -/
def grownCap (c : Params) (cap n : Nat) : Nat :=
  match c.rbCapMax with
  | none => 2 * cap + n
  | some m => min (2 * cap + n) m

/-- Make room for `n` more bytes (R122): trailing room, else compact in place, else grow. -/
def State.makeRoom (s : State) (n : Nat) : State :=
  if n ≤ s.rbCap - s.rbTail then s
  else if n ≤ s.rbCap - s.rbSize then
    s.setRing (s.rbMem.writeBytes 0 s.rb) 0 s.rbSize s.rbCap
  else s.setRing (Memory.writeBytes [] 0 s.rb) 0 s.rbSize (grownCap s.cfg s.rbCap n)

/-- Store a byte string at the tail. -/
def State.storeTail (s : State) (bs : Bytes) : State :=
  s.setRing (s.rbMem.writeBytes s.rbTail bs) s.rbHead (s.rbTail + bs.length) s.rbCap

/-- RB.APPEND's physical effect (R122): nothing for an empty string. -/
def State.pushTail (s : State) (bs : Bytes) : State :=
  if bs.length = 0 then s else (s.makeRoom bs.length).storeTail bs

/-- Move the head over `n` bytes; a drained buffer resets to (0,0) (R124, R125). -/
def State.dropHead (s : State) (n : Nat) : State :=
  if s.rbHead + n = s.rbTail then s.setRing s.rbMem 0 0 s.rbCap
  else s.setRing s.rbMem (s.rbHead + n) s.rbTail s.rbCap

/-- RB.APPEND (R121). -/
def ringAppend (bs : Bytes) (s : State) : State × Reply Unit :=
  if s.cfg.capFits (s.rbSize + bs.length) then (s.pushTail bs, .ok ())
  else raise (.ringOverflow s.rbSize bs.length) s

/-- RB.GET (R123). -/
def ringGet (i : Nat) (s : State) : State × Reply Byte :=
  if i < s.rbSize then (s, .ok (s.rbMem.read (s.rbHead + i)))
  else raise (.boundsError i s.rbSize) s

/-- RB.TAKE (R124). -/
def ringTake (n : Nat) (s : State) : State × Reply Bytes :=
  if n ≤ s.rbSize then (s.dropHead n, .ok (s.rb.take n))
  else raise (.boundsError n s.rbSize) s

/-- RB.SKIP (R125). -/
def ringSkip (n : Nat) (s : State) : State × Reply Unit :=
  if n ≤ s.rbSize then (s.dropHead n, .ok ())
  else raise (.boundsError n s.rbSize) s

/-- The scan of RB.FIND over the bytes from offset `i` on. -/
def scanFor (b : Byte) : Nat → Bytes → Option Nat
  | _, [] => none
  | i, x :: t => if x = b then some i else scanFor b (i + 1) t

/-- RB.FIND (R126): the smallest logical offset from `start` on that holds `b`. -/
def ringFind (b : Byte) (start : Nat) (s : State) : Option Nat := scanFor b start (s.rb.drop start)

/-! ### The id counters (41_codec_ops.md R150, R151) -/

/-- The counter after an allocation: `(c + 1) mod 224`. -/
def nextId (k : IssuedId) : IssuedId := ⟨(k.val + 1) % idMod, Nat.mod_lt _ (by decide)⟩

/-- ALLOC_PID (R150): the old value, and the state with the counter advanced. -/
def allocPid (s : State) : State × IssuedId := ({ s with pidCtr := nextId s.pidCtr }, s.pidCtr)

/-- ALLOC_TID (R151). -/
def allocTid (s : State) : State × IssuedId := ({ s with tidCtr := nextId s.tidCtr }, s.tidCtr)

/-! ### The two tables (42_transmit_ops.md R163 to R166) -/

/-- `HIST[k]` for any key: a key of 224..255 finds nothing (R27, R98). -/
def State.histAt (s : State) (k : Nat) : Option Bytes := s.hist[k]?.getD none

/-- `PEND[k]` for any key: a key of 224..255 finds nothing (R28, R98). -/
def State.pendAt (s : State) (k : Nat) : Bool := s.pend[k]?.getD false

/-- Replace one entry of `HIST`. -/
def State.setHist (s : State) (k : Nat) (e : Option Bytes) : State :=
  { s with hist := s.hist.setIfInBounds k e }

/-- Replace one entry of `PEND`. -/
def State.setPend (s : State) (k : Nat) (b : Bool) : State :=
  { s with pend := s.pend.setIfInBounds k b }

/-- HIST.PUT (R163). -/
def histPut (pid : IssuedId) (f : Bytes) (s : State) : State := s.setHist pid.val (some f)

/-- HIST.TAKE (R164): fetch and empty. -/
def histTake (id : Byte) (s : State) : State × Option Bytes :=
  match s.histAt id.toNat with
  | none => (s, none)
  | some f => (s.setHist id.toNat none, some f)

/-- PEND.PUT (R165): an entry still pending sets `F_PEND_OVERRUN`, and is overwritten. -/
def pendPut (tid : IssuedId) (s : State) : State :=
  if s.pendAt tid.val then (s.setFlags fPendOverrun).setPend tid.val true
  else s.setPend tid.val true

/-- PEND.TAKE (R166): test and clear. -/
def pendTake (key : Byte) (s : State) : State × Bool :=
  if s.pendAt key.toNat then (s.setPend key.toNat false, true) else (s, false)

/-! ### Writing to the transport (42_transmit_ops.md R167 to R170) -/

/-- Append a frame to the log of the outbound stream (R33). -/
def State.pushTx (s : State) (f : Bytes) : State := { s with tx := s.tx ++ [f] }

/-- One TxWrite has been made: the transport's next answer is for the next one (log 8). -/
def State.dropLink (s : State) : State := { s with link := s.link.tail }

/-- `TxWrite` (R13, R170): append the whole frame to `tx`. When the transport is set to fail this write, the
operation ends with `TransportFault`; what it changed before stays (D27, log 8). -/
def txWrite (f : Bytes) (s : State) : State × Reply Unit :=
  if s.link.head? = some false then raise (.transportFault f) s.dropLink
  else (s.dropLink.pushTx f, .ok ())

/-- Wrap an envelope under the next packet id and write it, not remembered in `HIST`: ABORT (R161) and
TX_ACK (R168). WRAP_ID's length requirement is checked before the id is taken (R152, R211, log 16). -/
def sendUnstored (env : Bytes) (s : State) : State × Reply Unit :=
  if s.cfg.maxLen.val < env.length then refuse .wrapId (.lengthError env.length) s
  else txWrite (wrapFrame s.cfg (idByte s.pidCtr) env) (allocPid s).1

/-- The part of SEND after ALLOC_TID (R160): wrap the add-task envelope under the next packet id, remember the
frame, register the task, write the frame. -/
def sendAddTask (flags : BitVec 3) (tid : IssuedId) (user : Bytes) (s : State) : State × Reply Unit :=
  let f := wrapFrame s.cfg (idByte s.pidCtr) (addEnvelope s.cfg flags tid user)
  txWrite f (pendPut tid (histPut s.pidCtr f (allocPid s).1))

/-- TX_NEG (R167): the empty frame for the received id; no counter and no table is touched. -/
def sendNegative (id : Byte) (s : State) : State × Reply Unit := txWrite (wrapFrame s.cfg id []) s

/-- TX_ACK (R168). -/
def sendAck (key : Byte) (s : State) : State × Reply Unit := sendUnstored (ackEnvelope s.cfg key) s

/-- RETRANSMIT (R169): resend the stored frame byte for byte and empty its entry. -/
def resend (id : Byte) (s : State) : State × Reply Unit :=
  match histTake id s with
  | (s1, none) => (s1.emit (.unknownRetransmit id), .ok ())
  | (s1, some f) =>
    match txWrite f s1 with
    | (s2, .ok _) => (s2.emit (.retransmit id), .ok ())
    | other => other

/-! ### Dispatch of a received payload (43_receive_path.md R189 to R196) -/

/-- COMPLETE (R193). -/
def completeTask (key status : Byte) (rest : Bytes) (s : State) : State :=
  match pendTake key s with
  | (s1, true) => s1.emit (.complete key status rest)
  | (s1, false) => s1.emit (.unmatched key status)

/-- Completion or log (R193, R194) for the routed key. -/
def routeStatus (key status : Byte) (rest : Bytes) (s : State) : State :=
  if isCompleting s.cfg status then completeTask key status rest s
  else if isKnown s.cfg status then s.emit (.status key status rest)
  else s.emit (.unknownStatus key status rest)

/-- DISPATCH (R189 to R196) of `status :: tail` received under packet id `id`: format choice, completion or log,
acknowledgement. It answers CONTINUE; an acknowledgement refused for its length (log 16) leaves that answer. -/
def dispatchPayload (id status : Byte) (tail : Bytes) (s : State) : State × Reply Turn :=
  match route s.cfg id status tail with
  | none => (s.emit (.malformedAsync id status), .ok .cont)
  | some (key, rest) =>
    let s1 := routeStatus key status rest s
    if needsAck s.cfg id status then
      match sendAck key s1 with
      | (s2, .fault f) => (s2, .fault f)
      | (s2, _) => (s2, .ok .cont)
    else (s1, .ok .cont)

/-- A write whose fault ends a PARSE_STEP and whose success lets it answer CONTINUE. -/
def thenContinue : State × Reply Unit → State × Reply Turn
  | (s, .ok _) => (s, .ok .cont)
  | (s, .fault f) => (s, .fault f)
  | (s, .refused r) => (s, .refused r)

/-- Phases 7 and 8 (R188, R189): an empty payload is a retransmit request, any other is dispatched. -/
def handlePayload (id : Byte) (payload : Bytes) (s : State) : State × Reply Turn :=
  match payload with
  | [] => thenContinue (resend id s)
  | status :: tail => dispatchPayload id status tail s

/-- Phases 6 to 8 (R187 to R189) on the frame `UNWRAP` was applied to. -/
def handleUnwrapped (u : Unwrapped) (s : State) : State × Reply Turn :=
  match u with
  | .crcMismatch id => thenContinue (sendNegative id (s.emit (.crcMismatch id)))
  | .badEscape id => thenContinue (sendNegative id (s.emit (.badEscape id)))
  | .ok id payload => handlePayload id payload s

/-- A received frame with its CRC byte: the check of phase 6 and what follows it (R187 to R189). -/
def handleFrame (id : Byte) (payload : Bytes) (crc : Byte) (s : State) : State × Reply Turn :=
  handleUnwrapped (if crc8 id payload = crc then .ok id payload else .crcMismatch id) s

/-- Phases 2 to 8 (R183 to R189) with a `START` at logical offset 0. -/
def parseCandidate (s : State) : State × Reply Turn :=
  if s.rbSize < 5 then (s, .ok .wait)
  else
    let l0 := s.rb.getD 1 0
    let l1 := s.rb.getD 2 0
    match acceptedLen s.cfg l0 l1 with
    | none => ((s.dropHead 1).emit (.badLength l0 l1), .ok .cont)
    | some len =>
      match physSpan s.cfg s.rb len with
      | none => (s, .ok .wait)
      | some n => handleUnwrapped (unwrap s.cfg (s.rb.take n)) (s.dropHead n)

/-- PARSE_STEP (R181), with phase 1 (R182) first. -/
def parseOne (s : State) : State × Reply Turn :=
  if s.rbSize = 0 then (s, .ok .wait)
  else
    match ringFind s.cfg.start 0 s with
    | none => ((s.dropHead s.rbSize).emit (.garbage s.rbSize), .ok .wait)
    | some k =>
      if k = 0 then parseCandidate s
      else parseCandidate ((s.dropHead k).emit (.garbage k))

end Sys2Proof.Machine
end

