-- ==== Sys2Proof/Machine/CodecOps.lean ====
section
/-! DEFINITION. The meanings of the codec and id-allocation operations (41_codec_ops.md). -/

namespace Sys2Proof.Machine

/-- CRC8 (R141). -/
def execCrc8 (id : Byte) (data : Bytes) (s : State) : Host.Outcome State Fault Refusal :=
  finish s (.byte (crc8 id data))

/-- ESC_BYTE (R143). -/
def execEscByte (b : Byte) (s : State) : Host.Outcome State Fault Refusal :=
  finish s (.bytes (escByte s.cfg b))

/-- ESCAPE (R144). -/
def execEscape (str : Bytes) (s : State) : Host.Outcome State Fault Refusal :=
  finish s (.bytes (escape s.cfg str))

/-- UNESCAPE (R145). -/
def execUnescape (p : Bytes) (s : State) : Host.Outcome State Fault Refusal :=
  finish s (.unescaped (unescape s.cfg p))

/-- PHYS_SPAN (R147). -/
def execPhysSpan (buf : Bytes) (len : Nat) (s : State) : Host.Outcome State Fault Refusal :=
  finish s (.span (physSpan s.cfg buf len))

/-- WRAP_ID (R148): refused with `LengthError` beyond `MAX_LEN`. -/
def execWrapId (id : Byte) (payload : Bytes) (s : State) : Host.Outcome State Fault Refusal :=
  conclude .bytes
    (if s.cfg.maxLen.val < payload.length then refuse .wrapId (.lengthError payload.length) s
     else (s, .ok (wrapFrame s.cfg id payload)))

/-- WRAP_NEXT (R152): the length is checked before an id is taken. -/
def execWrapNext (payload : Bytes) (s : State) : Host.Outcome State Fault Refusal :=
  conclude (fun (p : Byte × Bytes) => .wrapped p.1 p.2)
    (if s.cfg.maxLen.val < payload.length then refuse .wrapNext (.lengthError payload.length) s
     else ((allocPid s).1, .ok (idByte s.pidCtr, wrapFrame s.cfg (idByte s.pidCtr) payload)))

/-- UNWRAP (R149). -/
def execUnwrap (f : Bytes) (s : State) : Host.Outcome State Fault Refusal :=
  finish s (.unwrapped (unwrap s.cfg f))

/-- ALLOC_PID (R150). -/
def execAllocPid (s : State) : Host.Outcome State Fault Refusal :=
  finish (allocPid s).1 (.number (allocPid s).2.val)

/-- ALLOC_TID (R151). -/
def execAllocTid (s : State) : Host.Outcome State Fault Refusal :=
  finish (allocTid s).1 (.number (allocTid s).2.val)

end Sys2Proof.Machine
end

