-- ==== Sys2Proof/Machine/Lifecycle.lean ====
section
/-! DEFINITION. The meaning of RESET (70_reset_and_hazards.md R240). -/

namespace Sys2Proof.Machine

/-- RESET (R240, R35): every piece of state at its reset value, the logs emptied (log 10). The binding stays; what
the agents and the transport still have to do is outside the block and stays (log 4, 5, 8). -/
def execReset (s : State) : Host.Outcome State Fault Refusal :=
  .next { State.fresh s.cfg with cmds := s.cmds, sched := s.sched, link := s.link }

end Sys2Proof.Machine
end

