-- ==== Sys2Proof/Machine/Receive.lean ====
section
/-! DEFINITION. The meanings of the receive path (43_receive_path.md). -/

namespace Sys2Proof.Machine

/-- RX_CHUNK (R180), its first atomic step: the append. The PARSE_STEPs follow as steps of the receiver, which is
then busy (R14, R60); on RingOverflow the RX_CHUNK has ended (R217). A second RX_CHUNK while one is in progress
is the stuck state of U6. -/
def execRxChunk (bytes : Bytes) (s : State) : Host.Outcome State Fault Refusal :=
  if s.rxBusy then .fault .overlappingRxChunk
  else
    match ringAppend bytes s with
    | (s1, .ok _) => finish (s1.setBusy true) .none
    | (s1, .fault f) => finish s1 (.fault f)
    | (s1, .refused r) => finish s1 (.refused r)

/-- PARSE_STEP (R181). -/
def execParseStep (s : State) : Host.Outcome State Fault Refusal :=
  conclude .turn (parseOne s)

/-- DISPATCH (R189). -/
def execDispatch (id status : Byte) (tail : Bytes) (s : State) : Host.Outcome State Fault Refusal :=
  conclude .turn (dispatchPayload id status tail s)

/-- COMPLETE (R193). -/
def execComplete (key status : Byte) (rest : Bytes) (s : State) : Host.Outcome State Fault Refusal :=
  finish (completeTask key status rest s) .none

end Sys2Proof.Machine
end

