-- ==== Sys2Proof/Machine/RingBuffer.lean ====
section
/-! DEFINITION. The meanings of the seven ring-buffer operations (40_ringbuffer_ops.md). -/

namespace Sys2Proof.Machine

/-- RB.APPEND (R121, R122). -/
def execRbAppend (bytes : Bytes) (s : State) : Host.Outcome State Fault Refusal :=
  conclude (fun _ => .none) (ringAppend bytes s)

/-- RB.GET (R123). -/
def execRbGet (i : Nat) (s : State) : Host.Outcome State Fault Refusal :=
  conclude .byte (ringGet i s)

/-- RB.TAKE (R124). -/
def execRbTake (n : Nat) (s : State) : Host.Outcome State Fault Refusal :=
  conclude .bytes (ringTake n s)

/-- RB.SKIP (R125). -/
def execRbSkip (n : Nat) (s : State) : Host.Outcome State Fault Refusal :=
  conclude (fun _ => .none) (ringSkip n s)

/-- RB.FIND (R126). -/
def execRbFind (b : Byte) (start : Nat) (s : State) : Host.Outcome State Fault Refusal :=
  finish s (.offset (ringFind b start s))

/-- RB.SIZE (R127). -/
def execRbSize (s : State) : Host.Outcome State Fault Refusal :=
  finish s (.number s.rbSize)

/-- RB.ISEMPTY (R128). -/
def execRbIsEmpty (s : State) : Host.Outcome State Fault Refusal :=
  finish s (.flag (decide (s.rbSize = 0)))

end Sys2Proof.Machine
end

