-- ==== Sys2Proof/Machine/Transmit.lean ====
section
/-! DEFINITION. The meanings of the host operations, the table operations and the frames the receive path sends
(42_transmit_ops.md). -/

namespace Sys2Proof.Machine

/-- SEND (R160): the length is checked before any allocation; the task id is returned at once. -/
def execSend (flags : Byte) (user : Bytes) (s : State) : Host.Outcome State Fault Refusal :=
  conclude (fun _ => .number s.tidCtr.val)
    (if s.cfg.maxLen.val < 3 + user.length then refuse .send (.lengthError (3 + user.length)) s
     else sendAddTask (sentFlags flags) s.tidCtr user (allocTid s).1)

/-- ABORT (R161). -/
def execAbort (s : State) : Host.Outcome State Fault Refusal :=
  conclude (fun _ => .none) (sendUnstored (abortEnvelope s.cfg) s)

/-- HIST.PUT (R163). -/
def execHistPut (pid : IssuedId) (f : Bytes) (s : State) : Host.Outcome State Fault Refusal :=
  finish (histPut pid f s) .none

/-- HIST.TAKE (R164). -/
def execHistTake (id : Byte) (s : State) : Host.Outcome State Fault Refusal :=
  finish (histTake id s).1 (.frame (histTake id s).2)

/-- PEND.PUT (R165). -/
def execPendPut (tid : IssuedId) (s : State) : Host.Outcome State Fault Refusal :=
  finish (pendPut tid s) .none

/-- PEND.TAKE (R166). -/
def execPendTake (key : Byte) (s : State) : Host.Outcome State Fault Refusal :=
  finish (pendTake key s).1 (.flag (pendTake key s).2)

/-- TX_NEG (R167). -/
def execTxNeg (id : Byte) (s : State) : Host.Outcome State Fault Refusal :=
  conclude (fun _ => .none) (sendNegative id s)

/-- TX_ACK (R168). -/
def execTxAck (key : Byte) (s : State) : Host.Outcome State Fault Refusal :=
  conclude (fun _ => .none) (sendAck key s)

/-- RETRANSMIT (R169). -/
def execRetransmit (id : Byte) (s : State) : Host.Outcome State Fault Refusal :=
  conclude (fun _ => .none) (resend id s)

end Sys2Proof.Machine
end

