-- ==== Sys2Proof/Machine/Wire.lean ====
section
/-! DEFINITION. The meanings of the wire formats and the statuses (30_encoding.md): what the block does with the
message, in the message's direction (log 11, 12, 13). -/

namespace Sys2Proof.Machine

/-- FRAME received whole (R80): phases 6 to 8 of the receive path (R187 to R189). -/
def execFrame (id : Byte) (payload : Bytes) (crc : Byte) (s : State) : Host.Outcome State Fault Refusal :=
  conclude .turn (handleFrame id payload crc s)

/-- FRAME_EMPTY received (R95): a retransmit request when its CRC is good (R187, R188). -/
def execFrameEmpty (id crc : Byte) (s : State) : Host.Outcome State Fault Refusal :=
  conclude .turn (handleFrame id [] crc s)

/-- ESC_START (R86): the two bytes yield one logical byte `START`. -/
def execEscStart (s : State) : Host.Outcome State Fault Refusal :=
  finish s (.byte s.cfg.start)

/-- ESC_ESC (R86): the two bytes yield one logical byte `ESC`. -/
def execEscEsc (s : State) : Host.Outcome State Fault Refusal :=
  finish s (.byte s.cfg.esc)

/-- ENV_ADD sent (R89): the add-task envelope goes out as SEND sends it (R160). -/
def execEnvAdd (flags : BitVec 3) (tid : IssuedId) (user : Bytes) (s : State) : Host.Outcome State Fault Refusal :=
  conclude (fun _ => .none)
    (if s.cfg.maxLen.val < 3 + user.length then refuse .wrapId (.lengthError (3 + user.length)) s
     else sendAddTask flags tid user s)

/-- ENV_ACK sent (R91): the acknowledgement goes out as TX_ACK sends it (R168). -/
def execEnvAck (key : Byte) (s : State) : Host.Outcome State Fault Refusal :=
  conclude (fun _ => .none) (sendUnstored (ackEnvelope s.cfg key) s)

/-- ENV_ABORT sent (R93): the abort envelope goes out as ABORT sends it (R161). -/
def execEnvAbort (s : State) : Host.Outcome State Fault Refusal :=
  conclude (fun _ => .none) (sendUnstored (abortEnvelope s.cfg) s)

/-- RSP_SYNC received (R94): dispatched under its frame's packet id (R191). -/
def execRspSync (id status : Byte) (rest : Bytes) (s : State) : Host.Outcome State Fault Refusal :=
  conclude .turn (dispatchPayload id status rest s)

/-- RSP_ASYNC received (R94): dispatched under its explicit task id (R190). -/
def execRspAsync (id status tid : Byte) (rest : Bytes) (s : State) : Host.Outcome State Fault Refusal :=
  conclude .turn (dispatchPayload id status (tid :: rest) s)

/-- ST_PENDING received (R194). -/
def execStPending (id : Byte) (tail : Bytes) (s : State) : Host.Outcome State Fault Refusal :=
  conclude .turn (dispatchPayload id s.cfg.stPending tail s)

/-- ST_IN_PROGRESS received (R194). -/
def execStInProgress (id : Byte) (tail : Bytes) (s : State) : Host.Outcome State Fault Refusal :=
  conclude .turn (dispatchPayload id s.cfg.stInProgress tail s)

/-- ST_RESULT received (R193, R195). -/
def execStResult (id : Byte) (tail : Bytes) (s : State) : Host.Outcome State Fault Refusal :=
  conclude .turn (dispatchPayload id s.cfg.stResult tail s)

/-- ST_ERROR received (R193, R195). -/
def execStError (id : Byte) (tail : Bytes) (s : State) : Host.Outcome State Fault Refusal :=
  conclude .turn (dispatchPayload id s.cfg.stError tail s)

/-- ST_STOPPED received (R194). -/
def execStStopped (id : Byte) (tail : Bytes) (s : State) : Host.Outcome State Fault Refusal :=
  conclude .turn (dispatchPayload id s.cfg.stStopped tail s)

/-- ST_ASYNC_RESULT received (R190, R193). -/
def execStAsyncResult (id : Byte) (tail : Bytes) (s : State) : Host.Outcome State Fault Refusal :=
  conclude .turn (dispatchPayload id s.cfg.stAsyncResult tail s)

/-- ST_ASYNC_ERROR received (R190, R193). -/
def execStAsyncError (id : Byte) (tail : Bytes) (s : State) : Host.Outcome State Fault Refusal :=
  conclude .turn (dispatchPayload id s.cfg.stAsyncError tail s)

/-- ST_WAITING received (R194). -/
def execStWaiting (id : Byte) (tail : Bytes) (s : State) : Host.Outcome State Fault Refusal :=
  conclude .turn (dispatchPayload id s.cfg.stWaiting tail s)

/-- ST_OVERFLOW received (R194). -/
def execStOverflow (id : Byte) (tail : Bytes) (s : State) : Host.Outcome State Fault Refusal :=
  conclude .turn (dispatchPayload id s.cfg.stOverflow tail s)

/-- ST_ALREADY_EXISTS received (R194). -/
def execStAlreadyExists (id : Byte) (tail : Bytes) (s : State) : Host.Outcome State Fault Refusal :=
  conclude .turn (dispatchPayload id s.cfg.stAlreadyExists tail s)

/-- ST_NOT_FOUND received (R194). -/
def execStNotFound (id : Byte) (tail : Bytes) (s : State) : Host.Outcome State Fault Refusal :=
  conclude .turn (dispatchPayload id s.cfg.stNotFound tail s)

/-- ST_ILLEGAL_VALUE received (R194). -/
def execStIllegalValue (id : Byte) (tail : Bytes) (s : State) : Host.Outcome State Fault Refusal :=
  conclude .turn (dispatchPayload id s.cfg.stIllegalValue tail s)

end Sys2Proof.Machine
end

