-- ==== Sys2Proof/Machine/Dispatch.lean ====
section
/-! DEFINITION. One arm per row of the opcode table. -/

namespace Sys2Proof.Machine

def exec (i : Instr) (s : State) : Host.Outcome State Fault Refusal :=
  match i with
  | .frame id payload crc => Sys2Proof.Machine.execFrame id payload crc s
  | .frameEmpty id crc => Sys2Proof.Machine.execFrameEmpty id crc s
  | .escStart => Sys2Proof.Machine.execEscStart s
  | .escEsc => Sys2Proof.Machine.execEscEsc s
  | .envAdd flags tid user => Sys2Proof.Machine.execEnvAdd flags tid user s
  | .envAck key => Sys2Proof.Machine.execEnvAck key s
  | .envAbort => Sys2Proof.Machine.execEnvAbort s
  | .rspSync id status rest => Sys2Proof.Machine.execRspSync id status rest s
  | .rspAsync id status tid rest => Sys2Proof.Machine.execRspAsync id status tid rest s
  | .stPending id tail => Sys2Proof.Machine.execStPending id tail s
  | .stInProgress id tail => Sys2Proof.Machine.execStInProgress id tail s
  | .stResult id tail => Sys2Proof.Machine.execStResult id tail s
  | .stError id tail => Sys2Proof.Machine.execStError id tail s
  | .stStopped id tail => Sys2Proof.Machine.execStStopped id tail s
  | .stAsyncResult id tail => Sys2Proof.Machine.execStAsyncResult id tail s
  | .stAsyncError id tail => Sys2Proof.Machine.execStAsyncError id tail s
  | .stWaiting id tail => Sys2Proof.Machine.execStWaiting id tail s
  | .stOverflow id tail => Sys2Proof.Machine.execStOverflow id tail s
  | .stAlreadyExists id tail => Sys2Proof.Machine.execStAlreadyExists id tail s
  | .stNotFound id tail => Sys2Proof.Machine.execStNotFound id tail s
  | .stIllegalValue id tail => Sys2Proof.Machine.execStIllegalValue id tail s
  | .send flags user => Sys2Proof.Machine.execSend flags user s
  | .abort => Sys2Proof.Machine.execAbort s
  | .rxChunk bytes => Sys2Proof.Machine.execRxChunk bytes s
  | .reset => Sys2Proof.Machine.execReset s
  | .rbAppend bytes => Sys2Proof.Machine.execRbAppend bytes s
  | .rbGet k => Sys2Proof.Machine.execRbGet k s
  | .rbTake n => Sys2Proof.Machine.execRbTake n s
  | .rbSkip n => Sys2Proof.Machine.execRbSkip n s
  | .rbFind b start => Sys2Proof.Machine.execRbFind b start s
  | .rbSize => Sys2Proof.Machine.execRbSize s
  | .rbIsEmpty => Sys2Proof.Machine.execRbIsEmpty s
  | .crc8 id data => Sys2Proof.Machine.execCrc8 id data s
  | .escByte b => Sys2Proof.Machine.execEscByte b s
  | .escape str => Sys2Proof.Machine.execEscape str s
  | .unescape p => Sys2Proof.Machine.execUnescape p s
  | .physSpan buf len => Sys2Proof.Machine.execPhysSpan buf len s
  | .wrapId id payload => Sys2Proof.Machine.execWrapId id payload s
  | .wrapNext payload => Sys2Proof.Machine.execWrapNext payload s
  | .unwrap f => Sys2Proof.Machine.execUnwrap f s
  | .allocPid => Sys2Proof.Machine.execAllocPid s
  | .allocTid => Sys2Proof.Machine.execAllocTid s
  | .histPut pid f => Sys2Proof.Machine.execHistPut pid f s
  | .histTake id => Sys2Proof.Machine.execHistTake id s
  | .pendPut tid => Sys2Proof.Machine.execPendPut tid s
  | .pendTake key => Sys2Proof.Machine.execPendTake key s
  | .txNeg id => Sys2Proof.Machine.execTxNeg id s
  | .txAck key => Sys2Proof.Machine.execTxAck key s
  | .retransmit id => Sys2Proof.Machine.execRetransmit id s
  | .parseStep => Sys2Proof.Machine.execParseStep s
  | .dispatch id status tail => Sys2Proof.Machine.execDispatch id status tail s
  | .complete key status rest => Sys2Proof.Machine.execComplete key status rest s

end Sys2Proof.Machine
end

