-- ==== Sys2Proof/Machine/Sequencer.lean ====
section
/-! DEFINITION. Who moves next (20_memory.md R60, R64) and what its move is: a host sender or direct caller runs its
oldest invoked operation; the receiver runs RX_CHUNK, beginning the oldest delivery that waits and then taking its
PARSE_STEPs (00_scope.md R6, R14). -/

namespace Sys2Proof.Machine

/-- The agent that runs an operation (R6, R220): only the receiver invokes RX_CHUNK; every other operation is a host
sender's or a direct caller's. -/
def agentOf : Instr → Agent
  | .rxChunk _ => .receiver
  | _ => .host

/-- The oldest of an agent's own invoked operations, and the queue without it: one agent's steps appear in its own order,
and it does not wait for another's (R60). -/
def oldestOf (a : Agent) : List Instr → Option (Instr × List Instr)
  | [] => none
  | i :: t => if agentOf i = a then some (i, t) else (oldestOf a t).map fun p => (p.1, i :: p.2)

/-- The operations of the host that may fall between the PARSE_STEPs of one RX_CHUNK (R60, R64): SEND, ABORT, RESET. A
direct call of any other waits for its end: the ring buffer's callers are serialized (R64, R258, log 6). -/
def interleaves : Instr → Bool
  | .send _ _ => true
  | .abort => true
  | .reset => true
  | _ => false

/-- The next agent and the schedule after it (log 5): the schedule's head; with no schedule, the receiver while an
RX_CHUNK is in progress, and otherwise the agent of the oldest invoked operation. -/
def nextAgent (s : State) : Agent × List Agent :=
  match s.sched with
  | [] => (if s.rxBusy then .receiver else (s.cmds.head?.map agentOf).getD .host, [])
  | a :: t => (a, t)

/-- After a PARSE_STEP of the RX_CHUNK in progress: CONTINUE calls for another, WAIT ends the RX_CHUNK (R180), and
so does a fault, which is returned to the receiver (R210, log 8). -/
def afterTurn (s : State) : State :=
  if s.ret = .turn .cont then s else s.setBusy false

/-- An agent runs its oldest invoked operation; with none it is idle (R225). -/
def runOldest (a : Agent) (s : State) : Host.Outcome State Fault Refusal :=
  match oldestOf a s.cmds with
  | none => .next s
  | some (i, t) => exec i (s.setCmds t)

/-- The receiver's move: the next PARSE_STEP of the RX_CHUNK in progress; with none in progress, the append of the oldest
delivery that waits (R14, R215). -/
def receiverMove (s : State) : Host.Outcome State Fault Refusal :=
  if s.rxBusy then
    match exec .parseStep s with
    | .next t => .next (afterTurn t)
    | other => other
  else runOldest .receiver s

/-- The host's oldest operation must wait for the end of the RX_CHUNK in progress (log 6). -/
def hostWaits (s : State) : Bool :=
  match oldestOf .host s.cmds with
  | none => false
  | some (i, _) => s.rxBusy && !interleaves i

/-- The host's move: run its oldest invoked operation; one that must wait leaves the move to the receiver. -/
def hostMove (s : State) : Host.Outcome State Fault Refusal :=
  if hostWaits s then receiverMove s else runOldest .host s

/-- One atomic step of an instantiated block (R14, R60). -/
def move (s : State) : Host.Outcome State Fault Refusal :=
  match nextAgent s with
  | (.host, t) => hostMove (s.setSched t)
  | (.receiver, t) => receiverMove (s.setSched t)

/-- Instantiation refused with `BadParameters` (R9, R211, log 3): the REFUSED event is appended and the reason returned,
once; an instance that has been told so takes no further step. -/
def refuseInstance (k : Constraint) (s : State) : Host.Outcome State Fault Refusal :=
  if s.ret = .refused (.badParameters k) then .refused (.badParameters k)
  else conclude (fun (_ : Unit) => .none) (refuse .instantiation (.badParameters k) s)

/-- Invoke an operation so that the very next step runs it (log 4, 20): first in the queue, its agent next, no
RX_CHUNK in progress, and the open parameters bound to `P_ref`, under which the table's words are written. -/
def invokeNext (i : Instr) (s : State) : State :=
  { s with cfg := Params.ref, rxBusy := false, cmds := i :: s.cmds, sched := agentOf i :: s.sched }

end Sys2Proof.Machine
end

