-- ==== Sys2Proof/Machine/Step.lean ====
section
/-! DEFINITION. One step: an instance whose binding breaks a constraint is refused (00_scope.md R9, U17); any other
moves (20_memory.md R60). -/

namespace Sys2Proof.Machine

def step (s : State) : Host.Outcome State Fault Refusal :=
  match s.cfg.violation with
  | some k => refuseInstance k s
  | none => move s

/-- The state with the instruction of a table word placed where `step` takes its next operation from (log 20);
a word the decoder refuses places nothing. -/
def State.withFetchWord (s : State) (nbits w : Nat) : State :=
  match decodeTableWord nbits w with
  | some i => invokeNext i s
  | none => s

end Sys2Proof.Machine
end

