-- ==== Sys2Proof/Safety.lean ====
section
/-! DEFINITION. What counts as a safe run, in the terms claims use: the invariants of 10_state.md R36, the fault
record of R25, and the end of a run (70_reset_and_hazards.md R244). -/

namespace Sys2Proof.Machine

/-- The cursors of R36: `rb_head <= rb_tail <= rb_cap <= RB_CAP_MAX`, and the drained buffer is at (0,0). -/
def State.cursorsOk (s : State) : Prop :=
  s.rbHead ≤ s.rbTail ∧ s.rbTail ≤ s.rbCap ∧ s.cfg.capFits s.rbCap = true ∧
    (s.rbHead = s.rbTail → s.rbHead = 0)

/-- The storage is in canonical form and lies within the capacity (R30). -/
def State.storageOk (s : State) : Prop :=
  s.rbMem.wf = true ∧ ∀ cell ∈ s.rbMem, cell.1 < s.rbCap

/-- A frame `HIST` may hold under key `k` (R36): it starts with `START`, carries `k` at index 3, and opens to an
add-task envelope. -/
def histFrameOk (c : Params) (k : Nat) (f : Bytes) : Prop :=
  f.head? = some c.start ∧ f[3]? = some (BitVec.ofNat 8 k) ∧
    ∃ flags tid user, unwrap c f = .ok (BitVec.ofNat 8 k) (addEnvelope c flags tid user)

/-- Every stored frame is one SEND stored (R36). -/
def State.histOk (s : State) : Prop :=
  ∀ k f, s.histAt k = some f → histFrameOk s.cfg k f

/-- No direct HIST.PUT of a frame SEND would not have stored under that key is waiting to run (R163: HIST.PUT is
called only by SEND). -/
def State.cmdsOk (s : State) : Prop :=
  ∀ pid f, Instr.histPut pid f ∈ s.cmds → histFrameOk s.cfg pid.val f

/-- No fault is recorded (R25, R249). -/
def State.noFault (s : State) : Prop := s.faults = 0

/-- The run has ended (R244): every invoked operation has returned and no RX_CHUNK is in progress. -/
def State.ended (s : State) : Prop := s.cmds = [] ∧ s.rxBusy = false

/-- The invoked operation a step runs, when it runs one (R60): the oldest of the host's when the host moves and that
need not wait for an RX_CHUNK in progress; the oldest delivery when the receiver moves and none is (log 4, 5, 6). -/
def State.operationRun (s : State) : Option Instr :=
  if s.cfg.violation = none then
    match (nextAgent s).1 with
    | .host => if hostWaits s then none else (oldestOf .host s.cmds).map Prod.fst
    | .receiver => if s.rxBusy then none else (oldestOf .receiver s.cmds).map Prod.fst
  else none

/-- The transport takes the next frame (R170, log 8). -/
def State.writable (s : State) : Prop := s.link.head? ≠ some false

/-- The state after a TxWrite of `f` that the transport took (R13, R33). -/
def State.wrote (s : State) (f : Bytes) : State := s.dropLink.pushTx f

/-- The state after a TxWrite of `f` that the transport failed (R170, R210). -/
def State.writeFailed (s : State) (f : Bytes) : State :=
  s.dropLink.takeFault (.transportFault f)

/-- One PARSE_STEP of the receiver can do nothing more (R198 (b)): the buffer is empty, or holds a proper beginning
of one frame. -/
def State.awaitsBytes (s : State) : Prop :=
  s.rb = [] ∨ (s.rb.head? = some s.cfg.start ∧
    (s.rb.length < 5 ∨ ∃ len, acceptedLen s.cfg (s.rb.getD 1 0) (s.rb.getD 2 0) = some len ∧
      physSpan s.cfg s.rb len = none))

end Sys2Proof.Machine
end

