-- ==== Sys2Proof/Certificates/Slice0/Obligations.lean ====
section
/-! DEFINITION. The statements for the provers, and the words they are stated in. Operations answer through the
model's return port `ret` (log 7); a statement's premise `writable` says that the transport takes the frame the
operation writes, which is always so in the spec (R170, log 8). -/

open Sys2Proof Sys2Proof.Machine

namespace Sys2Proof.Claims

/-- Each of K1 to K6 of R9, as the rule words it. -/
def constraint (c : Params) : Constraint → Prop
  | .k1 => [c.start, c.esc, c.tstart, c.tesc].Nodup
  | .k2 => 224 ≤ c.start.toNat ∧ 224 ≤ c.esc.toNat ∧ c.start ≠ c.sentinelId ∧ c.esc ≠ c.sentinelId
  | .k3 => 224 ≤ c.sentinelId.toNat
  | .k4 => [c.stPending, c.stInProgress, c.stResult, c.stError, c.stStopped, c.stAsyncResult, c.stAsyncError,
      c.stWaiting, c.stOverflow, c.stAlreadyExists, c.stNotFound, c.stIllegalValue].Nodup
  | .k5 => [c.addOpcode, c.ackOpcode, c.abortOpcode].Nodup
  | .k6 => ∀ m, c.rbCapMax = some m → c.rbCapInit ≤ m

/-- The bits of a byte, most significant first. -/
def bitsOf (b : Byte) : List Bool := (List.range 8).map fun k => b.getMsbD k

/-- One clock of a plain shift register with polynomial 0x31, fed one bit: shift left, and exclusive-or 0x31 when
the bit shifted out differs from the bit fed. -/
def serialClock (c : Byte) (bit : Bool) : Byte := if c.msb != bit then (c <<< 1) ^^^ 0x31#8 else c <<< 1

/-- The register after a byte string, most significant bit of each byte first. -/
def serialCrc (c : Byte) (bs : Bytes) : Byte := (bs.flatMap bitsOf).foldl serialClock c

/-- How many bytes of a string are markers. -/
def markerCount (c : Params) (bs : Bytes) : Nat := bs.countP fun b => b == c.start || b == c.esc

/-- `Unescapes c p s`: read left to right, the physical string `p` stands for the logical string `s` (R86, R145). -/
inductive Unescapes (c : Params) : Bytes → Bytes → Prop where
  | done : Unescapes c [] []
  | startToken {p s : Bytes} : Unescapes c p s → Unescapes c (c.esc :: c.tstart :: p) (c.start :: s)
  | escToken {p s : Bytes} : Unescapes c p s → Unescapes c (c.esc :: c.tesc :: p) (c.esc :: s)
  | plain {b : Byte} {p s : Bytes} : b ≠ c.esc → Unescapes c p s → Unescapes c (b :: p) (b :: s)

/-- `n` WRAP_NEXTs of one payload, one after another: the ids they return and the state they leave. -/
def wrapTimes (payload : Bytes) : Nat → State → Option (List Byte × State)
  | 0, s => some ([], s)
  | n + 1, s =>
    match exec (.wrapNext payload) s with
    | .next t =>
      match t.ret, wrapTimes payload n t with
      | .wrapped id _, some (ids, u) => some (id :: ids, u)
      | _, _ => none
    | _ => none

/-- The event of a completing status for a key (R193). -/
def completionEvent (s : State) (key status : Byte) (rest : Bytes) : Event :=
  if s.pendAt key.toNat then .complete key status rest else .unmatched key status

/-- The eight informational statuses (R194) with their rows of the opcode table. -/
def informationalRows (c : Params) (id : Byte) (tail : Bytes) : List (Byte × Instr) :=
  [(c.stPending, .stPending id tail), (c.stInProgress, .stInProgress id tail), (c.stStopped, .stStopped id tail),
   (c.stWaiting, .stWaiting id tail), (c.stOverflow, .stOverflow id tail),
   (c.stAlreadyExists, .stAlreadyExists id tail), (c.stNotFound, .stNotFound id tail),
   (c.stIllegalValue, .stIllegalValue id tail)]

/-- Two outcomes of one kind, with related next states or the same reason. -/
def sameOutcome (R : State → State → Prop) :
    Host.Outcome State Fault Refusal → Host.Outcome State Fault Refusal → Prop
  | .next t, .next t' => R t t'
  | .fault f, .fault f' => f = f'
  | .refused r, .refused r' => r = r'
  | _, _ => False

/-- A state without what no operation reads: `FAULTS` and the two logs. -/
def unread (s : State) : State := { s with faults := 0, tx := [], ev := [] }

/-- A state without the physical layout of the ring buffer. -/
def unlaid (s : State) : State := s.setRing [] 0 0 0

/-- Two states with the same logical view and possibly different physical layouts (R29). -/
def sameView (s s' : State) : Prop := unlaid s = unlaid s' ∧ s.rb = s'.rb ∧ s.cursorsOk ∧ s'.cursorsOk

/-- An invoked operation that is a delivery to the receiver (R180, R215). -/
def isDelivery (i : Instr) : Prop := ∃ bytes, i = .rxChunk bytes

/-- PARSE_STEPs until one does not answer CONTINUE, at most `n` of them. -/
def parseUntilWait : Nat → State → Option State
  | 0, _ => none
  | n + 1, s =>
    match exec .parseStep s with
    | .next t => if t.ret = .turn .cont then parseUntilWait n t else some t
    | _ => none

/-- A whole RX_CHUNK (R180) with no other step between: the append, then PARSE_STEPs until WAIT. -/
def wholeChunk (bytes : Bytes) (s : State) : Option State :=
  match exec (.rxChunk bytes) s with
  | .next t => (parseUntilWait (t.rb.length + 1) t).map fun u => u.setBusy false
  | _ => none

/-- The events an operation whose TxWrite fails has logged by then, of those it logs when the write succeeds: all but
RETRANSMIT, which follows its write (R169). -/
def loggedBeforeWrite (l : List Event) : List Event := l.filter fun e => match e with | .retransmit _ => false | _ => true

/-- The events that are not GARBAGE, in order. -/
def otherEvents (l : List Event) : List Event := l.filter fun e => match e with | .garbage _ => false | _ => true

/-- The total of the GARBAGE counts. -/
def garbageTotal (l : List Event) : Nat := (l.map fun e => match e with | .garbage n => n | _ => 0).sum

end Sys2Proof.Claims

open Sys2Proof.Claims

/-! ### Reset and instantiation -/

/-- R35: after RESET every piece of state has the value of the table, the two logs emptied, and the binding of the
parameters stays. The initial state holds the same values. -/
def Obligations.ResetRestoresEveryResetValue : Prop :=
  (∀ s : State, ∃ t, exec .reset s = .next t ∧
    t.pidCtr = s.cfg.pidInit ∧ t.tidCtr = s.cfg.tidInit ∧ t.faults = 0 ∧
    (∀ k, t.histAt k = none) ∧ (∀ k, t.pendAt k = false) ∧
    t.rb = [] ∧ t.rbHead = 0 ∧ t.rbTail = 0 ∧ t.rbCap = s.cfg.rbCapInit ∧ t.tx = [] ∧ t.ev = [] ∧
    t.cfg = s.cfg) ∧
  State.reset.pidCtr = State.reset.cfg.pidInit ∧ State.reset.tidCtr = State.reset.cfg.tidInit ∧
  State.reset.faults = 0 ∧ (∀ k, State.reset.histAt k = none) ∧ (∀ k, State.reset.pendAt k = false) ∧
  State.reset.rb = [] ∧ State.reset.rbHead = 0 ∧ State.reset.rbTail = 0 ∧
  State.reset.rbCap = State.reset.cfg.rbCapInit ∧ State.reset.tx = [] ∧ State.reset.ev = []

/-- R9, R211: an instance whose binding passes K1 to K6 always takes its step; one whose binding breaks a constraint is
refused: REFUSED with BadParameters and a constraint it breaks is logged and returned, and nothing else changes; once
told so it takes no step (the place of the refusal is the model's, log 3). -/
def Obligations.BrokenBindingIsRefused : Prop :=
  ∀ s : State,
    ((∀ k, constraint s.cfg k) → step s = move s ∧ ∃ t, step s = .next t) ∧
    (∀ k, ¬ constraint s.cfg k → ∃ k', ¬ constraint s.cfg k' ∧
      (s.ret ≠ .refused (.badParameters k') → step s = .next { s with
        ev := s.ev ++ [.refused .instantiation (.badParameters k')], ret := .refused (.badParameters k') }) ∧
      (s.ret = .refused (.badParameters k') → step s = .refused (.badParameters k')))

/-! ### The ring buffer -/

/-- R121: RB.APPEND adds its bytes at the tail of the logical view, all of them, whatever the layout; an empty
string changes nothing physical either. Nothing but the ring buffer and the return port changes. -/
def Obligations.AppendExtendsTheBuffer : Prop :=
  ∀ (s : State) (bytes : Bytes), s.cursorsOk → s.cfg.capFits (s.rb.length + bytes.length) = true →
    ∃ t, exec (.rbAppend bytes) s = .next t ∧ t.rb = s.rb ++ bytes ∧
      t = { s with rbMem := t.rbMem, rbHead := t.rbHead, rbTail := t.rbTail, rbCap := t.rbCap, ret := .none } ∧
      (bytes = [] → t = { s with ret := .none })

/-- R122: the three cases of making room, with the bytes stored at the new tail, and every byte of `rb_mem` outside
the bytes stored (and, on compaction, outside the run moved to offset 0) as it was; a growth starts a new array,
of which only the run and the stored bytes are said. -/
def Obligations.AppendMakesRoomInThreeCases : Prop :=
  ∀ (s : State) (bytes : Bytes), s.cursorsOk → s.cfg.capFits (s.rb.length + bytes.length) = true → bytes ≠ [] →
    ∃ t, exec (.rbAppend bytes) s = .next t ∧
      if bytes.length ≤ s.rbCap - s.rbTail then
        t.rbHead = s.rbHead ∧ t.rbTail = s.rbTail + bytes.length ∧ t.rbCap = s.rbCap ∧
        (∀ i, i < bytes.length → t.rbMem.read (s.rbTail + i) = bytes.getD i 0) ∧
        ∀ a, (a < s.rbTail ∨ s.rbTail + bytes.length ≤ a) → t.rbMem.read a = s.rbMem.read a
      else if bytes.length ≤ s.rbCap - s.rb.length then
        t.rbHead = 0 ∧ t.rbTail = s.rb.length + bytes.length ∧ t.rbCap = s.rbCap ∧
        (∀ i, i < s.rb.length → t.rbMem.read i = s.rbMem.read (s.rbHead + i)) ∧
        (∀ i, i < bytes.length → t.rbMem.read (s.rb.length + i) = bytes.getD i 0) ∧
        ∀ a, s.rb.length + bytes.length ≤ a → t.rbMem.read a = s.rbMem.read a
      else
        t.rbHead = 0 ∧ t.rbTail = s.rb.length + bytes.length ∧
        t.rbCap = (match s.cfg.rbCapMax with
          | none => 2 * s.rbCap + bytes.length
          | some m => min (2 * s.rbCap + bytes.length) m) ∧
        (∀ i, i < s.rb.length → t.rbMem.read i = s.rbMem.read (s.rbHead + i)) ∧
        ∀ i, i < bytes.length → t.rbMem.read (s.rb.length + i) = bytes.getD i 0

/-- R121: an append past `RB_CAP_MAX` is the fault RingOverflow: no byte is appended, the flag is set, the fault is
logged and returned, and nothing else changes. -/
def Obligations.AppendBeyondCapacityFaults : Prop :=
  ∀ (s : State) (bytes : Bytes) (m : Nat), s.cfg.rbCapMax = some m → m < s.rb.length + bytes.length →
    exec (.rbAppend bytes) s = .next { s with
      faults := s.faults ||| 0b100#3
      ev := s.ev ++ [.fault (.ringOverflow s.rb.length bytes.length)]
      ret := .fault (.ringOverflow s.rb.length bytes.length) }

/-- R123: RB.GET returns the byte at a logical offset of the buffer and changes nothing. -/
def Obligations.GetPeeksAtTheOffset : Prop :=
  ∀ (s : State) (i : Nat) (b : Byte), s.rb[i]? = some b → exec (.rbGet i) s = .next { s with ret := .byte b }

/-- R124, R125: TAKE returns and removes the first `n` bytes, SKIP removes them; draining the buffer resets both
cursors to 0; no byte of the storage and nothing else changes. -/
def Obligations.TakeAndSkipRemoveFromTheHead : Prop :=
  ∀ (s : State) (n : Nat), s.cursorsOk → n ≤ s.rb.length →
    ∃ t : State, exec (.rbTake n) s = .next { t with ret := .bytes (s.rb.take n) } ∧
      exec (.rbSkip n) s = .next { t with ret := .none } ∧
      t.rb = s.rb.drop n ∧
      (n = s.rb.length → t.rbHead = 0 ∧ t.rbTail = 0) ∧
      (n < s.rb.length → t.rbHead = s.rbHead + n ∧ t.rbTail = s.rbTail) ∧
      t = { s with rbHead := t.rbHead, rbTail := t.rbTail }

/-- R123, R124, R125: an offset or count beyond the buffer is the fault BoundsError; no byte of the buffer changes. -/
def Obligations.OutOfRangeAccessFaults : Prop :=
  ∀ (s : State) (n : Nat),
    let faulted : State := { s with
      faults := s.faults ||| 0b010#3
      ev := s.ev ++ [.fault (.boundsError n s.rb.length)]
      ret := .fault (.boundsError n s.rb.length) }
    (s.rb.length ≤ n → exec (.rbGet n) s = .next faulted) ∧
    (s.rb.length < n → exec (.rbTake n) s = .next faulted ∧ exec (.rbSkip n) s = .next faulted)

/-- R126: RB.FIND returns the smallest offset from `start` on that holds the byte, and NONE exactly when there is
none; nothing changes. -/
def Obligations.FindAnswersTheFirstMatch : Prop :=
  ∀ (s : State) (b : Byte) (start : Nat),
    ∃ o : Option Nat, exec (.rbFind b start) s = .next { s with ret := .offset o } ∧
      (∀ i, o = some i ↔ start ≤ i ∧ s.rb[i]? = some b ∧ ∀ j, start ≤ j → j < i → s.rb[j]? ≠ some b) ∧
      (o = none ↔ ∀ j, start ≤ j → s.rb[j]? ≠ some b)

/-- R127, R128: RB.SIZE returns `|rb|`, which is `rb_tail - rb_head`; RB.ISEMPTY is true exactly when it is 0, and
in ordered cursors exactly when both are 0. -/
def Obligations.SizeAndIsEmptyTellTheLength : Prop :=
  ∀ s : State, s.rb.length = s.rbTail - s.rbHead ∧
    exec .rbSize s = .next { s with ret := .number s.rb.length } ∧
    exec .rbIsEmpty s = .next { s with ret := .flag (decide (s.rb = [])) } ∧
    (s.cursorsOk → (s.rb = [] ↔ s.rbHead = 0 ∧ s.rbTail = 0))

/-! ### The codec -/

/-- R142 (a): CRC8 is the plain most-significant-bit-first shift register with polynomial 0x31, initial value 0xFF,
no reflection and no final exclusive-or, over the packet id and then the data. -/
def Obligations.CrcIsThePlainShiftRegister : Prop :=
  ∀ (s : State) (id : Byte) (data : Bytes),
    exec (.crc8 id data) s = .next { s with ret := .byte (serialCrc 0xFF#8 (id :: data)) }

/-- R142 (b): CRC8 is affine over exclusive-or, and a change confined to one byte is always detected, in the id or in
the data. -/
def Obligations.CrcIsAffineAndDetectsOneByte : Prop :=
  (∀ (id : Byte) (d e : Bytes), d.length = e.length →
    crc8 id d ^^^ crc8 id e = serialCrc 0#8 (List.zipWith (· ^^^ ·) d e)) ∧
  (∀ (id id' : Byte) (d : Bytes), id ≠ id' → crc8 id d ≠ crc8 id' d) ∧
  ∀ (id b b' : Byte) (d e : Bytes), b ≠ b' → crc8 id (d ++ b :: e) ≠ crc8 id (d ++ b' :: e)

/-- R143, R144, R146: what ESC_BYTE and ESCAPE return (no raw START; one more byte for each marker; escaping a
concatenation is concatenating), and that UNESCAPE returns what was escaped; ESC_START and ESC_ESC stand for the
two markers (R86, log 13). Nothing changes but the return port. -/
def Obligations.EscapeIsUndoneByUnescape : Prop :=
  ∀ (s : State) (str more : Bytes) (b : Byte), s.cfg.Valid →
    ∃ out, exec (.escape str) s = .next { s with ret := .bytes out } ∧
      s.cfg.start ∉ out ∧ out.length = str.length + markerCount s.cfg str ∧
      exec (.unescape out) s = .next { s with ret := .unescaped (some str) } ∧
      (∃ out', exec (.escape more) s = .next { s with ret := .bytes out' } ∧
        exec (.escape (str ++ more)) s = .next { s with ret := .bytes (out ++ out') }) ∧
      (∃ one, exec (.escByte b) s = .next { s with ret := .bytes one } ∧
        exec (.escape [b]) s = .next { s with ret := .bytes one } ∧
        one = (if b = s.cfg.start then [s.cfg.esc, s.cfg.tstart]
          else if b = s.cfg.esc then [s.cfg.esc, s.cfg.tesc] else [b])) ∧
      exec .escStart s = .next { s with ret := .byte s.cfg.start } ∧
      exec .escEsc s = .next { s with ret := .byte s.cfg.esc }

/-- R145: UNESCAPE succeeds exactly on the strings that read left to right as escaped bytes, with the string they
stand for, and answers BAD_ESCAPE on every other (a dangling `ESC`, an unknown token). -/
def Obligations.UnescapeReadsLeftToRight : Prop :=
  ∀ (s : State) (p : Bytes), s.cfg.Valid →
    ∃ r, exec (.unescape p) s = .next { s with ret := .unescaped r } ∧ ∀ str, r = some str ↔ Unescapes s.cfg p str

/-- R147, R88: PHYS_SPAN of a buffer that begins with a whole frame is that frame's physical length whatever follows,
and NEED_MORE on every proper beginning of the frame; on any buffer, a length once found stays when more bytes come,
and lies between the five bytes of an empty frame and the bytes there are. -/
def Obligations.PhysSpanMeasuresTheFrame : Prop :=
  (∀ (s : State) (id crc : Byte) (payload more : Bytes) (k : Nat),
    let f := frameBytes s.cfg id payload crc
    f.length = 5 + payload.length + markerCount s.cfg (payload ++ [crc]) ∧
    exec (.physSpan (f ++ more) payload.length) s = .next { s with ret := .span (some f.length) } ∧
    (k < f.length → exec (.physSpan (f.take k) payload.length) s = .next { s with ret := .span none })) ∧
  ∀ (s : State) (buf more : Bytes) (len : Nat),
    ∃ r r', exec (.physSpan buf len) s = .next { s with ret := .span r } ∧
      exec (.physSpan (buf ++ more) len) s = .next { s with ret := .span r' } ∧
      (∀ k, r = some k → r' = some k ∧ 5 + len ≤ k ∧ k ≤ buf.length)

/-- R148: WRAP_ID's frame: START, the length split in 7 and 8 bits with bit 7 of the first 0, the raw id, the escaped
payload, the escaped CRC; refused with LengthError beyond MAX_LEN. Nothing but the return port and the event of
the refusal changes. -/
def Obligations.WrapIdBuildsTheFrame : Prop :=
  ∀ (s : State) (id : Byte) (payload : Bytes),
    (payload.length ≤ s.cfg.maxLen.val → ∃ l0 l1 : Byte,
      exec (.wrapId id payload) s = .next { s with
        ret := .bytes ([s.cfg.start, l0, l1, id] ++ escape s.cfg payload ++ escByte s.cfg (crc8 id payload)) } ∧
      l0.toNat = payload.length % 128 ∧ l1.toNat = payload.length / 128) ∧
    (s.cfg.maxLen.val < payload.length → exec (.wrapId id payload) s = .next { s with
      ev := s.ev ++ [.refused .wrapId (.lengthError payload.length)]
      ret := .refused (.lengthError payload.length) })

/-- R153: unwrapping a wrapped payload returns its id and the payload, markers and all, and its physical span is its
length. -/
def Obligations.UnwrapUndoesWrap : Prop :=
  ∀ (s : State) (id : Byte) (payload : Bytes), s.cfg.Valid → payload.length ≤ s.cfg.maxLen.val →
    ∃ f, exec (.wrapId id payload) s = .next { s with ret := .bytes f } ∧
      exec (.physSpan f payload.length) s = .next { s with ret := .span (some f.length) } ∧
      exec (.unwrap f) s = .next { s with ret := .unwrapped (.ok id payload) } ∧
      f.head? = some s.cfg.start ∧
      (∀ j, 4 ≤ j → f[j]? ≠ some s.cfg.start)

/-- R149: UNWRAP of a frame with header `b0, l0, l1, id` and body `p`: BAD_ESCAPE when `p` does not unescape; else the
last logical byte is checked against the CRC of the rest, whose length must be the declared one. -/
def Obligations.UnwrapChecksEscapesThenCrc : Prop :=
  ∀ (s : State) (b0 l0 l1 id : Byte) (p : Bytes), s.cfg.Valid →
    ((∀ body, ¬ Unescapes s.cfg p body) →
      exec (.unwrap (b0 :: l0 :: l1 :: id :: p)) s = .next { s with ret := .unwrapped (.badEscape id) }) ∧
    (∀ payload crc, Unescapes s.cfg p (payload ++ [crc]) →
      exec (.unwrap (b0 :: l0 :: l1 :: id :: p)) s = .next { s with
        ret := .unwrapped (if payload.length = l0.toNat % 128 + 128 * l1.toNat ∧ crc8 id payload = crc
          then .ok id payload else .crcMismatch id) }) ∧
    (Unescapes s.cfg p [] →
      exec (.unwrap (b0 :: l0 :: l1 :: id :: p)) s = .next { s with ret := .unwrapped (.crcMismatch id) })

/-! ### Id allocation -/

/-- R150, R151: each allocation returns the counter's value and advances it by one modulo 224, 223 to 0, and changes
no other register. -/
def Obligations.AllocationAdvancesModulo224 : Prop :=
  ∀ s : State,
    (∃ t, exec .allocPid s = .next t ∧ t.ret = .number s.pidCtr.val ∧
      t.pidCtr.val = (if s.pidCtr.val = 223 then 0 else s.pidCtr.val + 1) ∧
      t = { s with pidCtr := t.pidCtr, ret := t.ret }) ∧
    (∃ t, exec .allocTid s = .next t ∧ t.ret = .number s.tidCtr.val ∧
      t.tidCtr.val = (if s.tidCtr.val = 223 then 0 else s.tidCtr.val + 1) ∧
      t = { s with tidCtr := t.tidCtr, ret := t.ret })

/-- R152: WRAP_NEXT returns the next packet id and the frame wrapped under it, and advances the counter; an overlong
payload is refused and takes no id. -/
def Obligations.WrapNextTakesTheNextId : Prop :=
  ∀ (s : State) (payload : Bytes),
    (payload.length ≤ s.cfg.maxLen.val → ∃ t, exec (.wrapNext payload) s = .next t ∧
      t.ret = .wrapped (idByte s.pidCtr) (wrapFrame s.cfg (idByte s.pidCtr) payload) ∧
      t.pidCtr.val = (s.pidCtr.val + 1) % 224 ∧ t = { s with pidCtr := t.pidCtr, ret := t.ret }) ∧
    (s.cfg.maxLen.val < payload.length → exec (.wrapNext payload) s = .next { s with
      ev := s.ev ++ [.refused .wrapNext (.lengthError payload.length)]
      ret := .refused (.lengthError payload.length) })

/-- R152: from a counter at `p`, 224 consecutive WRAP_NEXTs return `p, p+1, ..., 223, 0, ..., p-1` in that order and
leave the counter at `p`. -/
def Obligations.ConsecutiveWrapsCycleThroughAllIds : Prop :=
  ∀ (s : State) (payload : Bytes), payload.length ≤ s.cfg.maxLen.val →
    ∃ ids t, wrapTimes payload 224 s = some (ids, t) ∧ t.pidCtr = s.pidCtr ∧
      ids = (List.range 224).map fun k => BitVec.ofNat 8 ((s.pidCtr.val + k) % 224)

/-! ### Transmit -/

/-- R160: SEND returns the task id, writes the add-task frame under the next packet id with flags bits 7..3 cleared,
stores it in HIST, sets the pending entry (and F_PEND_OVERRUN when it was still set), advances both counters, and
changes nothing else: no other entry of either table, no byte of the ring buffer. An envelope longer than MAX_LEN is
refused before anything changes but the event log. -/
def Obligations.SendSubmitsOneTask : Prop :=
  ∀ (s : State) (flags : Byte) (user : Bytes),
    (s.writable → 3 + user.length ≤ s.cfg.maxLen.val →
      let f := wrapFrame s.cfg (BitVec.ofNat 8 s.pidCtr.val)
        ([s.cfg.addOpcode, flags &&& 0x07#8, BitVec.ofNat 8 s.tidCtr.val] ++ user)
      ∃ t, exec (.send flags user) s = .next t ∧ t.ret = .number s.tidCtr.val ∧ t.tx = s.tx ++ [f] ∧
        t.pidCtr.val = (s.pidCtr.val + 1) % 224 ∧ t.tidCtr.val = (s.tidCtr.val + 1) % 224 ∧
        (∀ k, t.histAt k = if k = s.pidCtr.val then some f else s.histAt k) ∧
        (∀ k, t.pendAt k = (s.pendAt k || k == s.tidCtr.val)) ∧
        t.faults = (if s.pendAt s.tidCtr.val then s.faults ||| 0b001#3 else s.faults) ∧
        t = { s with pidCtr := t.pidCtr, tidCtr := t.tidCtr, faults := t.faults, hist := t.hist, pend := t.pend,
                     tx := t.tx, link := s.link.tail, ret := t.ret }) ∧
    (s.cfg.maxLen.val < 3 + user.length → exec (.send flags user) s = .next { s with
      ev := s.ev ++ [.refused .send (.lengthError (3 + user.length))]
      ret := .refused (.lengthError (3 + user.length)) })

/-- The model's reading of R211 (log 16): an ABORT, an acknowledgement or an envelope that MAX_LEN cannot hold is refused
by WRAP_ID's requirement before an id is taken, and DISPATCH goes on without its acknowledgement. -/
def Obligations.OverlongPayloadsAreRefused : Prop :=
  ∀ (s : State) (key : Byte) (flags : BitVec 3) (tid : IssuedId) (user tail : Bytes),
    let refused := fun (n : Nat) => Host.Outcome.next (φ := Fault) (ρ := Refusal)
      { s with ev := s.ev ++ [.refused .wrapId (.lengthError n)], ret := .refused (.lengthError n) }
    (s.cfg.maxLen.val < 3 + user.length → exec (.envAdd flags tid user) s = refused (3 + user.length)) ∧
    (s.cfg.maxLen.val < 1 → exec .abort s = refused 1 ∧ exec .envAbort s = refused 1) ∧
    (s.cfg.maxLen.val < 2 → exec (.txAck key) s = refused 2 ∧ exec (.envAck key) s = refused 2 ∧
      (s.cfg.Valid → key ≠ s.cfg.sentinelId → ∃ t, exec (.dispatch key s.cfg.stResult tail) s = .next t ∧
        (∀ k, t.pendAt k = (s.pendAt k && k != key.toNat)) ∧
        t = { s with pend := t.pend
                     ev := s.ev ++ [completionEvent s key s.cfg.stResult tail, .refused .wrapId (.lengthError 2)]
                     ret := .turn .cont }))

/-- The model's choice (log 12): an envelope given as such goes out as the operation that sends it sends it, the
acknowledgement as TX_ACK, the abort as ABORT, the add-task envelope as the part of SEND after ALLOC_TID, with R89's
layout. -/
def Obligations.EnvelopesGoOutAsTheirOperationsSendThem : Prop :=
  ∀ (s : State) (key : Byte) (flags : BitVec 3) (tid : IssuedId) (user : Bytes), s.writable →
    (2 ≤ s.cfg.maxLen.val → ∃ t, exec (.envAck key) s = .next t ∧ exec (.txAck key) s = .next t) ∧
    (1 ≤ s.cfg.maxLen.val → ∃ t, exec .envAbort s = .next t ∧ exec .abort s = .next t) ∧
    (3 + user.length ≤ s.cfg.maxLen.val →
      let f := wrapFrame s.cfg (BitVec.ofNat 8 s.pidCtr.val)
        ([s.cfg.addOpcode, BitVec.ofNat 8 flags.toNat, BitVec.ofNat 8 tid.val] ++ user)
      ∃ t, exec (.envAdd flags tid user) s = .next t ∧ t.tx = s.tx ++ [f] ∧
        t.pidCtr.val = (s.pidCtr.val + 1) % 224 ∧
        (∀ k, t.histAt k = if k = s.pidCtr.val then some f else s.histAt k) ∧
        (∀ k, t.pendAt k = (s.pendAt k || k == tid.val)) ∧
        t.faults = (if s.pendAt tid.val then s.faults ||| 0b001#3 else s.faults) ∧
        t = { s with pidCtr := t.pidCtr, faults := t.faults, hist := t.hist, pend := t.pend, tx := t.tx,
                     link := s.link.tail, ret := .none })

/-- R161: ABORT writes one frame whose payload is the abort opcode, under the next packet id; neither table, the task
counter, the flags nor the ring buffer changes. -/
def Obligations.AbortSendsOneUnstoredFrame : Prop :=
  ∀ s : State, s.writable → 1 ≤ s.cfg.maxLen.val →
    ∃ t, exec .abort s = .next t ∧ t.pidCtr.val = (s.pidCtr.val + 1) % 224 ∧
      t = { s with pidCtr := t.pidCtr, link := s.link.tail, ret := .none
                   tx := s.tx ++ [wrapFrame s.cfg (BitVec.ofNat 8 s.pidCtr.val) [s.cfg.abortOpcode]] }

/-- R167: TX_NEG writes the empty frame for the given id, whatever its value: no counter, no table and no flag
changes. -/
def Obligations.NegativeFrameEchoesTheId : Prop :=
  ∀ (s : State) (id : Byte), s.writable →
    exec (.txNeg id) s = .next { s with
      tx := s.tx ++ [[s.cfg.start, 0, 0, id] ++ escByte s.cfg (crc8 id [])], link := s.link.tail, ret := .none }

/-- R168: TX_ACK writes the acknowledgement envelope under the next packet id and does not store it. -/
def Obligations.AcknowledgementTakesTheNextId : Prop :=
  ∀ (s : State) (key : Byte), s.writable → 2 ≤ s.cfg.maxLen.val →
    ∃ t, exec (.txAck key) s = .next t ∧ t.pidCtr.val = (s.pidCtr.val + 1) % 224 ∧
      t = { s with pidCtr := t.pidCtr, link := s.link.tail, ret := .none
                   tx := s.tx ++ [wrapFrame s.cfg (BitVec.ofNat 8 s.pidCtr.val) [s.cfg.ackOpcode, key]] }

/-- R169: a retransmit request for a stored frame writes it byte for byte and empties its entry, no other; for any
other id it only logs. -/
def Obligations.RetransmitResendsOnce : Prop :=
  ∀ (s : State) (id : Byte), s.writable →
    (∀ f, s.histAt id.toNat = some f → ∃ t, exec (.retransmit id) s = .next t ∧
      (∀ k, t.histAt k = if k = id.toNat then none else s.histAt k) ∧
      t = { s with hist := t.hist, tx := s.tx ++ [f], ev := s.ev ++ [.retransmit id], link := s.link.tail
                   ret := .none }) ∧
    (s.histAt id.toNat = none →
      exec (.retransmit id) s = .next { s with ev := s.ev ++ [.unknownRetransmit id], ret := .none })

/-- R163, R164: HIST.PUT replaces the entry of its key; HIST.TAKE returns the frame of its key and empties the entry,
and returns NONE for an empty entry and for a key above 223. No other entry and nothing else changes. -/
def Obligations.HistoryIsKeyedByPacketId : Prop :=
  ∀ (s : State) (pid : IssuedId) (f : Bytes) (id : Byte),
    (∃ t, exec (.histPut pid f) s = .next t ∧
      (∀ k, t.histAt k = if k = pid.val then some f else s.histAt k) ∧ t = { s with hist := t.hist, ret := .none }) ∧
    (∃ t, exec (.histTake id) s = .next t ∧ t.ret = .frame (if 223 < id.toNat then none else s.histAt id.toNat) ∧
      (∀ k, t.histAt k = if k = id.toNat then none else s.histAt k) ∧ t = { s with hist := t.hist, ret := t.ret })

/-- R165, R166: PEND.PUT sets its entry and, when it was set, F_PEND_OVERRUN; PEND.TAKE tests and clears its entry,
and answers false for a key above 223. No other entry and nothing else changes. -/
def Obligations.PendingEntriesAreTestedAndCleared : Prop :=
  ∀ (s : State) (tid : IssuedId) (key : Byte),
    (∃ t, exec (.pendPut tid) s = .next t ∧ (∀ k, t.pendAt k = (s.pendAt k || k == tid.val)) ∧
      t.faults = (if s.pendAt tid.val then s.faults ||| 0b001#3 else s.faults) ∧
      t = { s with pend := t.pend, faults := t.faults, ret := .none }) ∧
    (∃ t, exec (.pendTake key) s = .next t ∧
      t.ret = .flag (if 223 < key.toNat then false else s.pendAt key.toNat) ∧
      (∀ k, t.pendAt k = (s.pendAt k && k != key.toNat)) ∧ t = { s with pend := t.pend, ret := t.ret })

/-- R170 (log 8): for every operation and wire row, when the transport fails the write of a frame it would have taken,
the operation ends with TransportFault returned to its invoker: every change made before the write stays (counters,
tables, the frame taken from the ring buffer, the HIST entry taken), nothing is written to `tx`, no flag is set and
the fault is logged in place of what follows the write. An operation that writes no frame does not look at the
transport. -/
def Obligations.FailedWriteKeepsEarlierChanges : Prop :=
  ∀ (s u : State) (i : Instr), s.link.head? = some false → exec i { s with link := true :: s.link.tail } = .next u →
    (s.tx.length < u.tx.length → ∃ f l, u.tx = s.tx ++ [f] ∧ u.ev = s.ev ++ l ∧
      exec i s = .next { u with
        tx := s.tx, ev := s.ev ++ loggedBeforeWrite l ++ [.fault (.transportFault f)]
        ret := .fault (.transportFault f) }) ∧
    (u.tx.length ≤ s.tx.length → exec i s = .next { u with link := s.link })

/-! ### The receive path -/

/-- R180, first step: RX_CHUNK appends its bytes and the receiver is then in progress with its PARSE_STEPs; on
RingOverflow it has ended, the chunk is lost, and no PARSE_STEP runs. -/
def Obligations.ReceiveChunkAppendsItsBytes : Prop :=
  ∀ (s : State) (bytes : Bytes), s.cursorsOk → s.rxBusy = false →
    (s.cfg.capFits (s.rb.length + bytes.length) = true → ∃ t, exec (.rxChunk bytes) s = .next t ∧
      t.rb = s.rb ++ bytes ∧
      t = { s with rbMem := t.rbMem, rbHead := t.rbHead, rbTail := t.rbTail, rbCap := t.rbCap, rxBusy := true
                   ret := .none }) ∧
    (s.cfg.capFits (s.rb.length + bytes.length) = false → exec (.rxChunk bytes) s = .next { s with
      faults := s.faults ||| 0b100#3
      ev := s.ev ++ [.fault (.ringOverflow s.rb.length bytes.length)]
      ret := .fault (.ringOverflow s.rb.length bytes.length) })

/-- R64: a second RX_CHUNK while one is in progress has no move; a step never gets there, because a delivery waits
for the end of the RX_CHUNK in progress. -/
def Obligations.OverlappingChunksHaveNoMove : Prop :=
  (∀ (s : State) (bytes : Bytes), s.rxBusy = true → exec (.rxChunk bytes) s = .fault .overlappingRxChunk) ∧
  ∀ s : State, step s ≠ .fault .overlappingRxChunk

/-- R193: COMPLETE clears a pending entry and reports status and payload; a key not pending is only logged; no other
entry of PEND, and nothing of HIST, changes. -/
def Obligations.CompletionClearsThePendingEntry : Prop :=
  ∀ (s : State) (key status : Byte) (rest : Bytes),
    ∃ t, exec (.complete key status rest) s = .next t ∧
      (∀ k, t.pendAt k = (s.pendAt k && k != key.toNat)) ∧
      t = { s with pend := t.pend, ev := s.ev ++ [completionEvent s key status rest], ret := .none }

/-- R191, R193, R195: RESULT and ERROR complete the entry keyed by the packet id, and are acknowledged with that key
under the next packet id unless the packet id is the sentinel, matched or not. The same for the status row, for the
synchronous format and for DISPATCH. -/
def Obligations.TerminalStatusesCompleteAndAcknowledge : Prop :=
  ∀ (s : State) (id st : Byte) (tail : Bytes) (i : Instr), s.cfg.Valid → s.writable → 2 ≤ s.cfg.maxLen.val →
    ((st = s.cfg.stResult ∧ i ∈ [.stResult id tail, .rspSync id st tail, .dispatch id st tail]) ∨
     (st = s.cfg.stError ∧ i ∈ [.stError id tail, .rspSync id st tail, .dispatch id st tail])) →
    ∃ t, exec i s = .next t ∧ (∀ k, t.pendAt k = (s.pendAt k && k != id.toNat)) ∧
      (id = s.cfg.sentinelId → t.tx = s.tx ∧ t.pidCtr = s.pidCtr ∧ t.link = s.link) ∧
      (id ≠ s.cfg.sentinelId →
        t.tx = s.tx ++ [wrapFrame s.cfg (BitVec.ofNat 8 s.pidCtr.val) [s.cfg.ackOpcode, id]] ∧
        t.pidCtr.val = (s.pidCtr.val + 1) % 224 ∧ t.link = s.link.tail) ∧
      t = { s with pend := t.pend, ev := s.ev ++ [completionEvent s id st tail], tx := t.tx, pidCtr := t.pidCtr
                   link := t.link, ret := .turn .cont }

/-- R190, R193, R195: ASYNC_RESULT and ASYNC_ERROR complete the entry keyed by their explicit task-id byte and are
never acknowledged; without that byte they are dropped as MALFORMED_ASYNC. -/
def Obligations.AsyncStatusesRouteByTaskId : Prop :=
  ∀ (s : State) (id st tid : Byte) (rest : Bytes), s.cfg.Valid →
    (st = s.cfg.stAsyncResult ∨ st = s.cfg.stAsyncError) →
    (∀ i ∈ [if st = s.cfg.stAsyncResult then Instr.stAsyncResult id (tid :: rest) else .stAsyncError id (tid :: rest),
        .rspAsync id st tid rest, .dispatch id st (tid :: rest)],
      ∃ t, exec i s = .next t ∧ (∀ k, t.pendAt k = (s.pendAt k && k != tid.toNat)) ∧
        t = { s with pend := t.pend, ev := s.ev ++ [completionEvent s tid st rest], ret := .turn .cont }) ∧
    (∀ i ∈ [if st = s.cfg.stAsyncResult then Instr.stAsyncResult id [] else .stAsyncError id [], .dispatch id st []],
      exec i s = .next { s with ev := s.ev ++ [.malformedAsync id st], ret := .turn .cont })

/-- R194: the eight informational statuses are only logged as STATUS, an unknown status byte only as UNKNOWN_STATUS:
no table changes and nothing is sent. -/
def Obligations.OtherStatusesAreOnlyLogged : Prop :=
  ∀ (s : State) (id st : Byte) (tail : Bytes), s.cfg.Valid →
    (∀ row, (st, row) ∈ informationalRows s.cfg id tail → ∀ i ∈ [row, .rspSync id st tail, .dispatch id st tail],
      exec i s = .next { s with ev := s.ev ++ [.status id st tail], ret := .turn .cont }) ∧
    (st ∉ s.cfg.statuses → ∀ i ∈ [Instr.rspSync id st tail, .dispatch id st tail],
      exec i s = .next { s with ev := s.ev ++ [.unknownStatus id st tail], ret := .turn .cont })

/-- R187, R188 (log 11): a received frame with a wrong CRC is logged and answered with a negative frame and nothing
else; with a good CRC an empty one is a retransmit request and any other is dispatched on its status byte. -/
def Obligations.ReceivedFramesAreCheckedThenHandled : Prop :=
  ∀ (s : State) (id crc st : Byte) (tail : Bytes), s.writable →
    (crc ≠ crc8 id (st :: tail) → exec (.frame id (st :: tail) crc) s = .next { s with
      ev := s.ev ++ [.crcMismatch id], tx := s.tx ++ [wrapFrame s.cfg id []], link := s.link.tail
      ret := .turn .cont }) ∧
    (crc ≠ crc8 id [] → exec (.frameEmpty id crc) s = .next { s with
      ev := s.ev ++ [.crcMismatch id], tx := s.tx ++ [wrapFrame s.cfg id []], link := s.link.tail
      ret := .turn .cont }) ∧
    (∃ t, exec (.frame id (st :: tail) (crc8 id (st :: tail))) s = .next t ∧ exec (.dispatch id st tail) s = .next t) ∧
    (∃ t, exec (.frameEmpty id (crc8 id [])) s = .next { t with ret := .turn .cont } ∧
      exec (.retransmit id) s = .next t)

/-- R181, R183, R185: PARSE_STEP answers WAIT and changes nothing (but the return port) on an empty buffer, on a
candidate of fewer than five bytes and on one whose span is not all there. -/
def Obligations.ParseStepWaitsForMoreBytes : Prop :=
  ∀ s : State,
    (s.rb = [] ∨ (s.rb.head? = some s.cfg.start ∧
      (s.rb.length < 5 ∨ ∃ len, acceptedLen s.cfg (s.rb.getD 1 0) (s.rb.getD 2 0) = some len ∧
        physSpan s.cfg s.rb len = none))) →
    exec .parseStep s = .next { s with ret := .turn .wait }

/-- R181, R182: a PARSE_STEP that answers WAIT leaves the buffer empty or beginning with START and waiting for bytes; it
changed nothing but to discard the bytes before the first START (all of them when there is none), with one GARBAGE
event of their number when there are any; a second one then changes nothing at all. -/
def Obligations.WaitIsIdempotent : Prop :=
  ∀ s t : State, exec .parseStep s = .next t → t.ret = .turn .wait →
    let n := s.rb.idxOf s.cfg.start
    t.awaitsBytes ∧ exec .parseStep t = .next t ∧ t.rb = s.rb.drop n ∧
      t = { s with rbHead := t.rbHead, rbTail := t.rbTail, ret := .turn .wait
                   ev := s.ev ++ if n = 0 then [] else [.garbage n] }

/-- R182: bytes before the first START are discarded with one GARBAGE event before the rest of the PARSE_STEP; a
buffer with no START is discarded whole and the step answers WAIT. -/
def Obligations.GarbageIsDiscarded : Prop :=
  ∀ (s : State) (g rest : Bytes), s.cursorsOk → g ≠ [] → s.cfg.start ∉ g →
    (s.rb = g → ∃ t, exec .parseStep s = .next t ∧ t.rb = [] ∧
      t = { s with rbHead := 0, rbTail := 0, ev := s.ev ++ [.garbage g.length], ret := .turn .wait }) ∧
    (s.rb = g ++ s.cfg.start :: rest → ∃ u, u.rb = s.cfg.start :: rest ∧
      u = { s with rbHead := s.rbHead + g.length, ev := s.ev ++ [.garbage g.length] } ∧
      ∃ t, exec .parseStep s = .next t ∧ exec .parseStep u = .next t)

/-- R184: a candidate whose first length byte has bit 7 set, or whose length exceeds MAX_LEN, is a false start: one
byte is skipped, BAD_LENGTH logged, nothing sent, and the step answers CONTINUE. -/
def Obligations.BadLengthSkipsOneByte : Prop :=
  ∀ (s : State) (l0 l1 b3 b4 : Byte) (rest : Bytes), s.cursorsOk → s.rb = s.cfg.start :: l0 :: l1 :: b3 :: b4 :: rest →
    (128 ≤ l0.toNat ∨ s.cfg.maxLen.val < l0.toNat % 128 + 128 * l1.toNat) →
    ∃ t, exec .parseStep s = .next t ∧ t.rb = l0 :: l1 :: b3 :: b4 :: rest ∧
      t = { s with rbHead := s.rbHead + 1, ev := s.ev ++ [.badLength l0 l1], ret := .turn .cont }

/-- R186, R187: a whole candidate whose escapes are invalid leaves the buffer, exactly its physical span, is logged as
BAD_ESCAPE and answered with a negative frame for the packet id as received; no table and no counter changes. -/
def Obligations.BadEscapeIsAnsweredLikeABadCrc : Prop :=
  ∀ s : State, s.writable → decodeFrame s.cfg s.rb = .reject .badEscape →
    ∃ t len n, acceptedLen s.cfg (s.rb.getD 1 0) (s.rb.getD 2 0) = some len ∧ physSpan s.cfg s.rb len = some n ∧
      exec .parseStep s = .next t ∧ n ≤ s.rb.length ∧ t.rb = s.rb.drop n ∧
      t = { s with rbHead := t.rbHead, rbTail := t.rbTail, ev := s.ev ++ [.badEscape (s.rb.getD 3 0)]
                   tx := s.tx ++ [wrapFrame s.cfg (s.rb.getD 3 0) []], link := s.link.tail, ret := .turn .cont }

/-- R186: when the bytes at the head of the ring buffer decode to a frame, PARSE_STEP takes exactly its bytes out of the
buffer and runs it; the bytes after the frame stay. -/
def Obligations.ParseStepRunsTheDecodedFrame : Prop :=
  ∀ (s : State) (i : Instr) (rest : Bytes), s.cursorsOk → decodeFrame s.cfg s.rb = .ok i rest →
    ∃ u t, u.rb = rest ∧ u = { s with rbHead := u.rbHead, rbTail := u.rbTail } ∧
      (rest = [] → u.rbHead = 0 ∧ u.rbTail = 0) ∧
      exec i u = .next t ∧ exec .parseStep s = .next t ∧ t.rb = rest

/-- R180: a PARSE_STEP that answers CONTINUE has removed at least one byte from the buffer and added none. -/
def Obligations.ContinueConsumesAByte : Prop :=
  ∀ s t : State, exec .parseStep s = .next t → t.ret = .turn .cont →
    ∃ n, 1 ≤ n ∧ n ≤ s.rb.length ∧ t.rb = s.rb.drop n

/-- R198 (e): a frame WRAP_ID produced, alone in the buffer, is taken out whole in one PARSE_STEP and passes its
check: the step is that of the payload's own row, and drains the buffer. -/
def Obligations.EchoedFrameIsTakenWhole : Prop :=
  ∀ (s : State) (id : Byte) (payload : Bytes), s.cfg.Valid → s.cursorsOk → payload.length ≤ s.cfg.maxLen.val →
    s.rb = wrapFrame s.cfg id payload →
    ∃ t, exec .parseStep s = .next t ∧ t.rb = [] ∧ t.rbHead = 0 ∧ t.rbTail = 0 ∧
      (∀ st tail, payload = st :: tail → exec (.dispatch id st tail) { s with rbHead := 0, rbTail := 0 } = .next t) ∧
      (payload = [] → s.writable →
        ∃ u, exec (.retransmit id) { s with rbHead := 0, rbTail := 0 } = .next u ∧ t = { u with ret := .turn .cont })

/-- R198 (f): a PARSE_STEP writes at most one frame. -/
def Obligations.ParseStepWritesAtMostOneFrame : Prop :=
  ∀ s t : State, exec .parseStep s = .next t → t.tx = s.tx ∨ ∃ f, t.tx = s.tx ++ [f]

/-- R198 (a): cutting a byte string into two chunks changes neither the state (but the physical layout) nor `tx` nor
`ev`, but how the GARBAGE events are split. -/
def Obligations.ChunkingIsUnobservable : Prop :=
  ∀ (s : State) (x y : Bytes), s.cursorsOk → s.link = [] → s.rxBusy = false →
    s.cfg.capFits (s.rb.length + (x.length + y.length)) = true →
    ∃ u v w, wholeChunk x s = some u ∧ wholeChunk y u = some v ∧ wholeChunk (x ++ y) s = some w ∧
      v.rb = w.rb ∧ otherEvents v.ev = otherEvents w.ev ∧ garbageTotal v.ev = garbageTotal w.ev ∧
      unlaid { v with ev := [] } = unlaid { w with ev := [] }

/-! ### The whole machine -/

/-- R60 (log 4, 5): when the host moves (by the schedule, or by default when no RX_CHUNK is in progress and the oldest
invoked operation is no delivery) and the oldest of its own operations is `i`, a step is exactly `i`, taken out of the
queue, deliveries that came before it still waiting; with none of its own invoked the host's move changes nothing but
the schedule (R225). -/
def Obligations.StepRunsTheInvokedOperation : Prop :=
  ∀ s : State, s.cfg.Valid →
    (s.sched.head? = some .host ∨
      (s.sched = [] ∧ s.rxBusy = false ∧ ∀ bytes, s.cmds.head? ≠ some (.rxChunk bytes))) →
    (∀ pre i post, s.cmds = pre ++ i :: post → (∀ j ∈ pre, isDelivery j) → ¬ isDelivery i →
      (s.rxBusy = true → interleaves i = true) →
      step s = exec i { s with cmds := pre ++ post, sched := s.sched.tail }) ∧
    ((∀ j ∈ s.cmds, isDelivery j) → step s = .next { s with sched := s.sched.tail })

/-- R14, R60, R180 (log 4, 5, 6): when the receiver moves in an RX_CHUNK in progress (by the schedule, by default, or
because the host's oldest operation must wait), a step is one PARSE_STEP, and the RX_CHUNK stays in progress exactly when
it answers CONTINUE: WAIT ends it, and so does a fault. Where the bytes at the head of the ring buffer decode to a frame,
that PARSE_STEP is the frame's instruction with its bytes taken out. When the receiver moves with no RX_CHUNK in progress
(by the schedule, or by default when the oldest invoked operation is a delivery), a step is the append of the oldest
delivery that waits, whatever the host has invoked before it; with no delivery waiting it changes nothing but the
schedule (R215, R225). -/
def Obligations.StepRunsTheReceivedFrame : Prop :=
  ∀ s : State, s.cfg.Valid →
    (s.rxBusy = true → (s.sched.head? = some .receiver ∨ s.sched = [] ∨
        (s.sched.head? = some .host ∧ ∃ pre i post, s.cmds = pre ++ i :: post ∧ (∀ j ∈ pre, isDelivery j) ∧
          ¬ isDelivery i ∧ interleaves i = false)) →
      (∃ t, exec .parseStep { s with sched := s.sched.tail } = .next t ∧
        step s = .next { t with rxBusy := decide (t.ret = .turn .cont) }) ∧
      (∀ i rest, s.cursorsOk → decodeFrame s.cfg s.rb = .ok i rest →
        ∃ u t, u.rb = rest ∧ u = { s with rbHead := u.rbHead, rbTail := u.rbTail, sched := s.sched.tail } ∧
          exec i u = .next t ∧ step s = .next { t with rxBusy := decide (t.ret = .turn .cont) })) ∧
    (s.rxBusy = false → (s.sched.head? = some .receiver ∨
        (s.sched = [] ∧ ∃ bytes, s.cmds.head? = some (.rxChunk bytes))) →
      (∀ pre bytes post, s.cmds = pre ++ .rxChunk bytes :: post → (∀ j ∈ pre, ¬ isDelivery j) →
        ∃ t, exec (.rxChunk bytes) { s with cmds := pre ++ post, sched := s.sched.tail } = .next t ∧ step s = .next t) ∧
      ((∀ j ∈ s.cmds, ¬ isDelivery j) → step s = .next { s with sched := s.sched.tail }))

/-- R36: every step keeps the cursors in order and within `RB_CAP_MAX`, the drained buffer at (0,0), and the storage
in canonical form within the capacity; it never changes the binding of the parameters. -/
def Obligations.EveryStepKeepsTheRingBufferInvariant : Prop :=
  ∀ s t : State, s.cursorsOk ∧ s.storageOk → step s = .next t → (t.cursorsOk ∧ t.storageOk) ∧ t.cfg = s.cfg

/-- R36: the invariants hold after RESET, in the initial state of every instance whose binding passes K1 to K6, and in
`State.reset` whatever its withheld values are (R8, log 2). RESET ends an RX_CHUNK in progress (log 6), and what is
outside the block stays (log 4, 5, 8). -/
def Obligations.InvariantsHoldAfterReset : Prop :=
  (∀ s : State, s.cfg.Valid → ∃ t, exec .reset s = .next t ∧ t.cursorsOk ∧ t.storageOk ∧ t.histOk ∧ t.noFault ∧
    t.rxBusy = false ∧ t.cmds = s.cmds ∧ t.sched = s.sched ∧ t.link = s.link) ∧
  (∀ c : Params, c.Valid → (State.fresh c).cursorsOk ∧ (State.fresh c).storageOk ∧ (State.fresh c).histOk ∧
    (State.fresh c).cmdsOk ∧ (State.fresh c).noFault) ∧
  State.reset.cursorsOk ∧ State.reset.storageOk ∧ State.reset.histOk ∧ State.reset.cmdsOk ∧ State.reset.noFault

/-- R36: every step keeps every stored frame an add-task frame under its own packet id. A direct HIST.PUT, which the
block itself never makes but in SEND (R163), must be of such a frame. -/
def Obligations.EveryStepKeepsTheHistoryInvariant : Prop :=
  ∀ s t : State, s.histOk ∧ s.cmdsOk → step s = .next t → t.histOk ∧ t.cmdsOk

/-- R25: no step but one that runs RESET clears a fault flag. -/
def Obligations.FaultFlagsAreSticky : Prop :=
  ∀ s t : State, s.operationRun ≠ some .reset → step s = .next t → s.faults &&& t.faults = s.faults

/-- R25, R33: `FAULTS`, `tx` and `ev` change no behaviour: two states that differ in them only step alike. -/
def Obligations.FlagsAndLogsAreNeverRead : Prop :=
  ∀ s s' : State, unread s = unread s' → sameOutcome (fun t t' => unread t = unread t') (step s) (step s')

/-- R29: two states with the same logical buffer and different physical layouts are indistinguishable: they step
alike, return the same results, log the same events and write the same frames. -/
def Obligations.PhysicalLayoutIsUnobservable : Prop :=
  ∀ s s' : State, sameView s s' → sameOutcome sameView (step s) (step s')

/-- R23, R24: but for a step that runs RESET, a step leaves `pid_ctr` alone or advances it by one modulo 224, and only a
step that runs SEND (or a direct ALLOC_TID) moves `tid_ctr`. -/
def Obligations.CountersMoveByOne : Prop :=
  ∀ s t : State, s.operationRun ≠ some .reset → step s = .next t →
    (t.pidCtr = s.pidCtr ∨ t.pidCtr.val = (s.pidCtr.val + 1) % 224) ∧
    (t.tidCtr = s.tidCtr ∨ (t.tidCtr.val = (s.tidCtr.val + 1) % 224 ∧
      (s.operationRun = some .allocTid ∨ ∃ flags user, s.operationRun = some (.send flags user))))

/-! ### The encodings -/

/-- Decoding what was encoded gives it back, for every wire format and every operand its encoding admits: in the byte
stream and in an escaped span whatever follows, in a payload the whole payload. -/
def Obligations.DecodeUndoesEncode : Prop :=
  ∀ (c : Params) (i : Instr) (ctx : WireContext) (bs : Bytes), c.Valid → i.wellFormed c = true →
    encode c i = some (ctx, bs) →
    decode c ctx bs = .ok i [] ∧ ((ctx = .stream ∨ ctx = .escaped) → ∀ more, decode c ctx (bs ++ more) = .ok i more)

/-- What the decoder accepts is well-formed, in every context: the payload no longer than MAX_LEN, FRAME_EMPTY for the
empty one, the status in its format's class. -/
def Obligations.DecoderAnswersOnlyWellFormed : Prop :=
  ∀ (c : Params) (ctx : WireContext) (bs rest : Bytes) (i : Instr),
    decode c ctx bs = .ok i rest → i.wellFormed c = true

/-- A few words written out from the encodings decode to what they stand for (under `P_ref`, as the examples of
30_encoding.md and 95_test_vectors.md are). -/
def Obligations.WrittenOutWordsDecode : Prop :=
  decode Params.ref .stream [0xFE, 0x02, 0x00, 0x05, 0xFD, 0xEE, 0xFD, 0xED, 0x9F] = .ok (.frame 5 [0xFE, 0xFD] 0x9F) [] ∧
  decode Params.ref .stream [0xFE, 0x00, 0x00, 0x37, 0xFD, 0xEE, 0x11] = .ok (.frameEmpty 0x37 0xFE) [0x11] ∧
  decode Params.ref .escaped [0xFD, 0xED] = .ok .escEsc [] ∧
  decode Params.ref .envelope [0xC1, 0x05, 0x00, 0x10] = .ok (.envAdd 5 0 [0x10]) [] ∧
  decode Params.ref (.response 0xF0) [0xA6, 0x00, 0xFE] = .ok (.rspAsync 0xF0 0xA6 0x00 [0xFE]) [] ∧
  decode Params.ref (.status 0x01) [0xA4, 0x03] = .ok (.stError 0x01 [0x03]) [] ∧
  decode Params.ref .stream [0xFE, 0x80, 0x00, 0x01, 0x9D] = .reject .badLength
end

