-- ==== Sys2Proof/Laws/Memory.lean ====
section
/-! SUPPORT. The storage of the ring buffer: a byte written is read back, other indices read as before, and every
operation keeps the canonical form. -/

namespace Sys2Proof.Machine

/-! ### Reading after writing -/

theorem Memory.read_erase (m : Memory) (a b : Nat) :
    (m.erase a).read b = if b = a then Memory.unlisted else m.read b := by
  induction m with
  | nil => simp [Memory.erase, Memory.read]
  | cons cell t ih =>
    obtain ⟨k, w⟩ := cell
    by_cases hk : k = a
    · subst hk
      simp only [Memory.erase, if_true, ih, Memory.read]
      by_cases hb : b = k
      · simp [hb]
      · simp [hb, Ne.symm hb]
    · simp only [Memory.erase, hk, if_false, Memory.read, ih]
      by_cases hb : k = b
      · subst hb; simp [hk]
      · simp [hb]

theorem Memory.read_place (m : Memory) (a : Nat) (v : Byte) (b : Nat) (hne : b ≠ a) :
    (m.place a v).read b = m.read b := by
  induction m with
  | nil => simp [Memory.place, Memory.read, Ne.symm hne]
  | cons cell t ih =>
    obtain ⟨k, w⟩ := cell
    by_cases hk : a < k
    · simp [Memory.place, hk, Memory.read, Ne.symm hne]
    · simp only [Memory.place, hk, if_false, Memory.read, ih]

theorem Memory.read_place_same (m : Memory) (a : Nat) (v : Byte) (h : ∀ cell ∈ m, cell.1 ≠ a) :
    (m.place a v).read a = v := by
  induction m with
  | nil => simp [Memory.place, Memory.read]
  | cons cell t ih =>
    obtain ⟨k, w⟩ := cell
    have hk : k ≠ a := h (k, w) (by simp)
    by_cases hlt : a < k
    · simp [Memory.place, hlt, Memory.read]
    · simp only [Memory.place, hlt, if_false, Memory.read, hk]
      exact ih fun cell hc => h cell (List.mem_cons_of_mem _ hc)

theorem Memory.erase_mem {m : Memory} {a : Nat} {cell : Host.Cell} (h : cell ∈ m.erase a) :
    cell ∈ m ∧ cell.1 ≠ a := by
  induction m with
  | nil => simp [Memory.erase] at h
  | cons c t ih =>
    obtain ⟨k, w⟩ := c
    by_cases hk : k = a
    · simp only [Memory.erase, hk, if_true] at h
      exact ⟨List.mem_cons_of_mem _ (ih h).1, (ih h).2⟩
    · simp only [Memory.erase, hk, if_false, List.mem_cons] at h
      rcases h with rfl | h
      · exact ⟨by simp, hk⟩
      · exact ⟨List.mem_cons_of_mem _ (ih h).1, (ih h).2⟩

/-- A byte written is the byte read there; every other index reads as before. -/
theorem Memory.read_write (m : Memory) (a : Nat) (v : Byte) (b : Nat) :
    (m.write a v).read b = if b = a then v else m.read b := by
  unfold Memory.write
  by_cases hv : v = Memory.unlisted
  · simp [hv, Memory.read_erase]
  · by_cases hb : b = a
    · subst hb
      simp [hv, Memory.read_place_same _ _ _ fun cell hc => (Memory.erase_mem hc).2]
    · simp [hv, hb, Memory.read_place _ _ _ _ hb, Memory.read_erase]

/-- A byte string written at `a` is read there; every index outside it reads as before. -/
theorem Memory.read_writeBytes (bs : Bytes) : ∀ (m : Memory) (a b : Nat),
    (m.writeBytes a bs).read b = if a ≤ b ∧ b < a + bs.length then bs.getD (b - a) 0 else m.read b := by
  induction bs with
  | nil => intro m a b; simp [Memory.writeBytes]
  | cons x t ih =>
    intro m a b
    rw [Memory.writeBytes, ih, Memory.read_write]
    by_cases h1 : b = a
    · subst h1
      simp
    · by_cases h2 : a + 1 ≤ b ∧ b < a + 1 + t.length
      · obtain ⟨d, rfl⟩ : ∃ d, b = a + 1 + d := ⟨b - (a + 1), by omega⟩
        have e1 : a + 1 + d - (a + 1) = d := by omega
        have e2 : a + 1 + d - a = d + 1 := by omega
        have h3 : a ≤ a + 1 + d ∧ a + 1 + d < a + (t.length + 1) := by omega
        simp only [List.length_cons, h2, h3, if_true, and_self, e1, e2]
        simp
      · have h3 : ¬ (a ≤ b ∧ b < a + (x :: t).length) := by simp only [List.length_cons]; omega
        rw [if_neg h2, if_neg h3, if_neg h1]

@[simp] theorem Memory.readBytes_length (m : Memory) (a n : Nat) : (m.readBytes a n).length = n := by
  simp [Memory.readBytes]

theorem Memory.readBytes_getElem? (m : Memory) (a n i : Nat) :
    (m.readBytes a n)[i]? = if i < n then some (m.read (a + i)) else none := by
  unfold Memory.readBytes
  by_cases h : i < n
  · simp [h]
  · simp [h]

theorem Memory.readBytes_append (m : Memory) (a n k : Nat) :
    m.readBytes a (n + k) = m.readBytes a n ++ m.readBytes (a + n) k := by
  simp [Memory.readBytes, ← List.map_append]

/-- Two storages that agree on a run of indices read the same there. -/
theorem Memory.readBytes_congr {m m' : Memory} {a a' n : Nat}
    (h : ∀ i, i < n → m.read (a + i) = m'.read (a' + i)) : m.readBytes a n = m'.readBytes a' n := by
  apply List.ext_getElem?
  intro i
  rw [Memory.readBytes_getElem?, Memory.readBytes_getElem?]
  by_cases hi : i < n
  · simp [hi, h i hi]
  · simp [hi]

/-- Reading back exactly the byte string written. -/
theorem Memory.readBytes_writeBytes (m : Memory) (a : Nat) (bs : Bytes) :
    (m.writeBytes a bs).readBytes a bs.length = bs := by
  apply List.ext_getElem?
  intro i
  rw [Memory.readBytes_getElem?]
  by_cases hi : i < bs.length
  · simp [hi, Memory.read_writeBytes]
  · simp [hi]

/-! ### The canonical form -/

theorem Memory.wf_cons (k : Nat) (v : Byte) (t : Memory) :
    Memory.wf ((k, v) :: t) = true ↔
      v ≠ Memory.unlisted ∧ (∀ cell ∈ t.head?, k < cell.1) ∧ Memory.wf t = true := by
  cases t with
  | nil => simp [Memory.wf]
  | cons c t => obtain ⟨k', v'⟩ := c; simp [Memory.wf, and_assoc]

theorem Memory.wf_lt {k : Nat} {v : Byte} {t : Memory} (h : Memory.wf ((k, v) :: t) = true) :
    ∀ cell ∈ t, k < cell.1 := by
  induction t generalizing k v with
  | nil => simp
  | cons c t ih =>
    obtain ⟨k', v'⟩ := c
    obtain ⟨-, h2, h3⟩ := (Memory.wf_cons _ _ _).1 h
    have hk : k < k' := h2 (k', v') (by simp)
    intro cell hc
    rcases List.mem_cons.1 hc with rfl | hc
    · exact hk
    · exact Nat.lt_trans hk (ih h3 cell hc)

theorem Memory.wf_of_lt {k : Nat} {v : Byte} {t : Memory} (hv : v ≠ Memory.unlisted)
    (hlt : ∀ cell ∈ t, k < cell.1) (ht : t.wf = true) : Memory.wf ((k, v) :: t) = true :=
  (Memory.wf_cons _ _ _).2 ⟨hv, fun cell hc => hlt cell (List.mem_of_mem_head? hc), ht⟩

theorem Memory.erase_wf {m : Memory} (a : Nat) (h : m.wf = true) : (m.erase a).wf = true := by
  induction m with
  | nil => rfl
  | cons c t ih =>
    obtain ⟨k, w⟩ := c
    obtain ⟨h1, -, h3⟩ := (Memory.wf_cons _ _ _).1 h
    by_cases hk : k = a
    · simpa [Memory.erase, hk] using ih h3
    · simp only [Memory.erase, hk, if_false]
      exact Memory.wf_of_lt h1 (fun cell hc => Memory.wf_lt h cell (Memory.erase_mem hc).1) (ih h3)

theorem Memory.place_mem {m : Memory} {a : Nat} {v : Byte} {cell : Host.Cell} (h : cell ∈ m.place a v) :
    cell = (a, v) ∨ cell ∈ m := by
  induction m with
  | nil => simpa [Memory.place] using h
  | cons c t ih =>
    obtain ⟨k, w⟩ := c
    by_cases hlt : a < k
    · simpa [Memory.place, hlt] using h
    · simp only [Memory.place, hlt, if_false, List.mem_cons] at h ⊢
      rcases h with h | h
      · exact .inr (.inl h)
      · exact (ih h).imp id .inr

theorem Memory.place_wf {m : Memory} {a : Nat} {v : Byte} (hv : v ≠ Memory.unlisted)
    (hne : ∀ cell ∈ m, cell.1 ≠ a) (h : m.wf = true) : (m.place a v).wf = true := by
  induction m with
  | nil => simp [Memory.place, Memory.wf, hv]
  | cons c t ih =>
    obtain ⟨k, w⟩ := c
    obtain ⟨h1, -, h3⟩ := (Memory.wf_cons _ _ _).1 h
    by_cases hlt : a < k
    · simp only [Memory.place, hlt, if_true]
      refine Memory.wf_of_lt hv (fun cell hc => ?_) h
      rcases List.mem_cons.1 hc with rfl | hc
      · exact hlt
      · exact Nat.lt_trans hlt (Memory.wf_lt h cell hc)
    · simp only [Memory.place, hlt, if_false]
      have hk : k ≠ a := hne (k, w) (by simp)
      refine Memory.wf_of_lt h1 (fun cell hc => ?_) (ih (fun c hc => hne c (List.mem_cons_of_mem _ hc)) h3)
      rcases Memory.place_mem hc with rfl | hc
      · show k < a; omega
      · exact Memory.wf_lt h cell hc

/-- Storing a byte keeps the canonical form. -/
theorem Memory.write_wf {m : Memory} (a : Nat) (v : Byte) (h : m.wf = true) : (m.write a v).wf = true := by
  unfold Memory.write
  split
  · exact Memory.erase_wf a h
  · exact Memory.place_wf ‹_› (fun cell hc => (Memory.erase_mem hc).2) (Memory.erase_wf a h)

/-- Storing a byte string keeps the canonical form. -/
theorem Memory.writeBytes_wf (bs : Bytes) : ∀ (m : Memory) (a : Nat), m.wf = true → (m.writeBytes a bs).wf = true := by
  induction bs with
  | nil => intro m a h; exact h
  | cons x t ih => intro m a h; exact ih _ _ (Memory.write_wf a x h)

theorem Memory.write_mem {m : Memory} {a : Nat} {v : Byte} {cell : Host.Cell} (h : cell ∈ m.write a v) :
    cell.1 = a ∨ cell ∈ m := by
  unfold Memory.write at h
  split at h
  · exact .inr (Memory.erase_mem h).1
  · rcases Memory.place_mem h with rfl | h
    · exact .inl rfl
    · exact .inr (Memory.erase_mem h).1

/-- Storing a byte string lists no index but those stored to. -/
theorem Memory.writeBytes_mem (bs : Bytes) : ∀ {m : Memory} {a : Nat} {cell : Host.Cell},
    cell ∈ m.writeBytes a bs → (a ≤ cell.1 ∧ cell.1 < a + bs.length) ∨ cell ∈ m := by
  induction bs with
  | nil => intro m a cell h; exact .inr h
  | cons x t ih =>
    intro m a cell h
    rw [Memory.writeBytes] at h
    simp only [List.length_cons]
    rcases ih h with h | h
    · exact .inl (by omega)
    · rcases Memory.write_mem h with h | h
      · exact .inl (by omega)
      · exact .inr h

/-- The reset state's storage is in canonical form. -/
theorem State.reset_rbMem_wf : State.reset.rbMem.wf = true := rfl

end Sys2Proof.Machine
end

