-- ==== Sys2Proof/Laws/State.lean ====
section
/-! SUPPORT. What each named update of the state leaves in each field: one lemma per field per update, true by
definition, so that no later proof unfolds a record update. -/

namespace Sys2Proof.Machine

/-! ### emit -/

@[simp] theorem State.emit_cfg (s : State) (e : Event) : (s.emit e).cfg = s.cfg := rfl
@[simp] theorem State.emit_pidCtr (s : State) (e : Event) : (s.emit e).pidCtr = s.pidCtr := rfl
@[simp] theorem State.emit_tidCtr (s : State) (e : Event) : (s.emit e).tidCtr = s.tidCtr := rfl
@[simp] theorem State.emit_faults (s : State) (e : Event) : (s.emit e).faults = s.faults := rfl
@[simp] theorem State.emit_hist (s : State) (e : Event) : (s.emit e).hist = s.hist := rfl
@[simp] theorem State.emit_pend (s : State) (e : Event) : (s.emit e).pend = s.pend := rfl
@[simp] theorem State.emit_rbMem (s : State) (e : Event) : (s.emit e).rbMem = s.rbMem := rfl
@[simp] theorem State.emit_rbHead (s : State) (e : Event) : (s.emit e).rbHead = s.rbHead := rfl
@[simp] theorem State.emit_rbTail (s : State) (e : Event) : (s.emit e).rbTail = s.rbTail := rfl
@[simp] theorem State.emit_rbCap (s : State) (e : Event) : (s.emit e).rbCap = s.rbCap := rfl
@[simp] theorem State.emit_tx (s : State) (e : Event) : (s.emit e).tx = s.tx := rfl
@[simp] theorem State.emit_ev (s : State) (e : Event) : (s.emit e).ev = s.ev ++ [e] := rfl
@[simp] theorem State.emit_ret (s : State) (e : Event) : (s.emit e).ret = s.ret := rfl
@[simp] theorem State.emit_rxBusy (s : State) (e : Event) : (s.emit e).rxBusy = s.rxBusy := rfl
@[simp] theorem State.emit_cmds (s : State) (e : Event) : (s.emit e).cmds = s.cmds := rfl
@[simp] theorem State.emit_sched (s : State) (e : Event) : (s.emit e).sched = s.sched := rfl
@[simp] theorem State.emit_link (s : State) (e : Event) : (s.emit e).link = s.link := rfl
@[simp] theorem State.emit_rbSize (s : State) (e : Event) : (s.emit e).rbSize = s.rbSize := rfl
@[simp] theorem State.emit_rb (s : State) (e : Event) : (s.emit e).rb = s.rb := rfl
@[simp] theorem State.emit_histAt (s : State) (e : Event) (j : Nat) : (s.emit e).histAt j = s.histAt j := rfl
@[simp] theorem State.emit_pendAt (s : State) (e : Event) (j : Nat) : (s.emit e).pendAt j = s.pendAt j := rfl

/-! ### setRet -/

@[simp] theorem State.setRet_cfg (s : State) (r : Result) : (s.setRet r).cfg = s.cfg := rfl
@[simp] theorem State.setRet_pidCtr (s : State) (r : Result) : (s.setRet r).pidCtr = s.pidCtr := rfl
@[simp] theorem State.setRet_tidCtr (s : State) (r : Result) : (s.setRet r).tidCtr = s.tidCtr := rfl
@[simp] theorem State.setRet_faults (s : State) (r : Result) : (s.setRet r).faults = s.faults := rfl
@[simp] theorem State.setRet_hist (s : State) (r : Result) : (s.setRet r).hist = s.hist := rfl
@[simp] theorem State.setRet_pend (s : State) (r : Result) : (s.setRet r).pend = s.pend := rfl
@[simp] theorem State.setRet_rbMem (s : State) (r : Result) : (s.setRet r).rbMem = s.rbMem := rfl
@[simp] theorem State.setRet_rbHead (s : State) (r : Result) : (s.setRet r).rbHead = s.rbHead := rfl
@[simp] theorem State.setRet_rbTail (s : State) (r : Result) : (s.setRet r).rbTail = s.rbTail := rfl
@[simp] theorem State.setRet_rbCap (s : State) (r : Result) : (s.setRet r).rbCap = s.rbCap := rfl
@[simp] theorem State.setRet_tx (s : State) (r : Result) : (s.setRet r).tx = s.tx := rfl
@[simp] theorem State.setRet_ev (s : State) (r : Result) : (s.setRet r).ev = s.ev := rfl
@[simp] theorem State.setRet_ret (s : State) (r : Result) : (s.setRet r).ret = r := rfl
@[simp] theorem State.setRet_rxBusy (s : State) (r : Result) : (s.setRet r).rxBusy = s.rxBusy := rfl
@[simp] theorem State.setRet_cmds (s : State) (r : Result) : (s.setRet r).cmds = s.cmds := rfl
@[simp] theorem State.setRet_sched (s : State) (r : Result) : (s.setRet r).sched = s.sched := rfl
@[simp] theorem State.setRet_link (s : State) (r : Result) : (s.setRet r).link = s.link := rfl
@[simp] theorem State.setRet_rbSize (s : State) (r : Result) : (s.setRet r).rbSize = s.rbSize := rfl
@[simp] theorem State.setRet_rb (s : State) (r : Result) : (s.setRet r).rb = s.rb := rfl
@[simp] theorem State.setRet_histAt (s : State) (r : Result) (j : Nat) : (s.setRet r).histAt j = s.histAt j := rfl
@[simp] theorem State.setRet_pendAt (s : State) (r : Result) (j : Nat) : (s.setRet r).pendAt j = s.pendAt j := rfl

/-! ### setFlags -/

@[simp] theorem State.setFlags_cfg (s : State) (m : BitVec 3) : (s.setFlags m).cfg = s.cfg := rfl
@[simp] theorem State.setFlags_pidCtr (s : State) (m : BitVec 3) : (s.setFlags m).pidCtr = s.pidCtr := rfl
@[simp] theorem State.setFlags_tidCtr (s : State) (m : BitVec 3) : (s.setFlags m).tidCtr = s.tidCtr := rfl
@[simp] theorem State.setFlags_faults (s : State) (m : BitVec 3) : (s.setFlags m).faults = s.faults ||| m := rfl
@[simp] theorem State.setFlags_hist (s : State) (m : BitVec 3) : (s.setFlags m).hist = s.hist := rfl
@[simp] theorem State.setFlags_pend (s : State) (m : BitVec 3) : (s.setFlags m).pend = s.pend := rfl
@[simp] theorem State.setFlags_rbMem (s : State) (m : BitVec 3) : (s.setFlags m).rbMem = s.rbMem := rfl
@[simp] theorem State.setFlags_rbHead (s : State) (m : BitVec 3) : (s.setFlags m).rbHead = s.rbHead := rfl
@[simp] theorem State.setFlags_rbTail (s : State) (m : BitVec 3) : (s.setFlags m).rbTail = s.rbTail := rfl
@[simp] theorem State.setFlags_rbCap (s : State) (m : BitVec 3) : (s.setFlags m).rbCap = s.rbCap := rfl
@[simp] theorem State.setFlags_tx (s : State) (m : BitVec 3) : (s.setFlags m).tx = s.tx := rfl
@[simp] theorem State.setFlags_ev (s : State) (m : BitVec 3) : (s.setFlags m).ev = s.ev := rfl
@[simp] theorem State.setFlags_ret (s : State) (m : BitVec 3) : (s.setFlags m).ret = s.ret := rfl
@[simp] theorem State.setFlags_rxBusy (s : State) (m : BitVec 3) : (s.setFlags m).rxBusy = s.rxBusy := rfl
@[simp] theorem State.setFlags_cmds (s : State) (m : BitVec 3) : (s.setFlags m).cmds = s.cmds := rfl
@[simp] theorem State.setFlags_sched (s : State) (m : BitVec 3) : (s.setFlags m).sched = s.sched := rfl
@[simp] theorem State.setFlags_link (s : State) (m : BitVec 3) : (s.setFlags m).link = s.link := rfl
@[simp] theorem State.setFlags_rbSize (s : State) (m : BitVec 3) : (s.setFlags m).rbSize = s.rbSize := rfl
@[simp] theorem State.setFlags_rb (s : State) (m : BitVec 3) : (s.setFlags m).rb = s.rb := rfl
@[simp] theorem State.setFlags_histAt (s : State) (m : BitVec 3) (j : Nat) : (s.setFlags m).histAt j = s.histAt j := rfl
@[simp] theorem State.setFlags_pendAt (s : State) (m : BitVec 3) (j : Nat) : (s.setFlags m).pendAt j = s.pendAt j := rfl

/-! ### setRing -/

@[simp] theorem State.setRing_cfg (s : State) (m : Memory) (h t c : Nat) : (s.setRing m h t c).cfg = s.cfg := rfl
@[simp] theorem State.setRing_pidCtr (s : State) (m : Memory) (h t c : Nat) : (s.setRing m h t c).pidCtr = s.pidCtr := rfl
@[simp] theorem State.setRing_tidCtr (s : State) (m : Memory) (h t c : Nat) : (s.setRing m h t c).tidCtr = s.tidCtr := rfl
@[simp] theorem State.setRing_faults (s : State) (m : Memory) (h t c : Nat) : (s.setRing m h t c).faults = s.faults := rfl
@[simp] theorem State.setRing_hist (s : State) (m : Memory) (h t c : Nat) : (s.setRing m h t c).hist = s.hist := rfl
@[simp] theorem State.setRing_pend (s : State) (m : Memory) (h t c : Nat) : (s.setRing m h t c).pend = s.pend := rfl
@[simp] theorem State.setRing_rbMem (s : State) (m : Memory) (h t c : Nat) : (s.setRing m h t c).rbMem = m := rfl
@[simp] theorem State.setRing_rbHead (s : State) (m : Memory) (h t c : Nat) : (s.setRing m h t c).rbHead = h := rfl
@[simp] theorem State.setRing_rbTail (s : State) (m : Memory) (h t c : Nat) : (s.setRing m h t c).rbTail = t := rfl
@[simp] theorem State.setRing_rbCap (s : State) (m : Memory) (h t c : Nat) : (s.setRing m h t c).rbCap = c := rfl
@[simp] theorem State.setRing_tx (s : State) (m : Memory) (h t c : Nat) : (s.setRing m h t c).tx = s.tx := rfl
@[simp] theorem State.setRing_ev (s : State) (m : Memory) (h t c : Nat) : (s.setRing m h t c).ev = s.ev := rfl
@[simp] theorem State.setRing_ret (s : State) (m : Memory) (h t c : Nat) : (s.setRing m h t c).ret = s.ret := rfl
@[simp] theorem State.setRing_rxBusy (s : State) (m : Memory) (h t c : Nat) : (s.setRing m h t c).rxBusy = s.rxBusy := rfl
@[simp] theorem State.setRing_cmds (s : State) (m : Memory) (h t c : Nat) : (s.setRing m h t c).cmds = s.cmds := rfl
@[simp] theorem State.setRing_sched (s : State) (m : Memory) (h t c : Nat) : (s.setRing m h t c).sched = s.sched := rfl
@[simp] theorem State.setRing_link (s : State) (m : Memory) (h t c : Nat) : (s.setRing m h t c).link = s.link := rfl
@[simp] theorem State.setRing_histAt (s : State) (m : Memory) (h t c : Nat) (j : Nat) : (s.setRing m h t c).histAt j = s.histAt j := rfl
@[simp] theorem State.setRing_pendAt (s : State) (m : Memory) (h t c : Nat) (j : Nat) : (s.setRing m h t c).pendAt j = s.pendAt j := rfl

/-! ### setHist -/

@[simp] theorem State.setHist_cfg (s : State) (k : Nat) (e : Option Bytes) : (s.setHist k e).cfg = s.cfg := rfl
@[simp] theorem State.setHist_pidCtr (s : State) (k : Nat) (e : Option Bytes) : (s.setHist k e).pidCtr = s.pidCtr := rfl
@[simp] theorem State.setHist_tidCtr (s : State) (k : Nat) (e : Option Bytes) : (s.setHist k e).tidCtr = s.tidCtr := rfl
@[simp] theorem State.setHist_faults (s : State) (k : Nat) (e : Option Bytes) : (s.setHist k e).faults = s.faults := rfl
@[simp] theorem State.setHist_hist (s : State) (k : Nat) (e : Option Bytes) : (s.setHist k e).hist = s.hist.setIfInBounds k e := rfl
@[simp] theorem State.setHist_pend (s : State) (k : Nat) (e : Option Bytes) : (s.setHist k e).pend = s.pend := rfl
@[simp] theorem State.setHist_rbMem (s : State) (k : Nat) (e : Option Bytes) : (s.setHist k e).rbMem = s.rbMem := rfl
@[simp] theorem State.setHist_rbHead (s : State) (k : Nat) (e : Option Bytes) : (s.setHist k e).rbHead = s.rbHead := rfl
@[simp] theorem State.setHist_rbTail (s : State) (k : Nat) (e : Option Bytes) : (s.setHist k e).rbTail = s.rbTail := rfl
@[simp] theorem State.setHist_rbCap (s : State) (k : Nat) (e : Option Bytes) : (s.setHist k e).rbCap = s.rbCap := rfl
@[simp] theorem State.setHist_tx (s : State) (k : Nat) (e : Option Bytes) : (s.setHist k e).tx = s.tx := rfl
@[simp] theorem State.setHist_ev (s : State) (k : Nat) (e : Option Bytes) : (s.setHist k e).ev = s.ev := rfl
@[simp] theorem State.setHist_ret (s : State) (k : Nat) (e : Option Bytes) : (s.setHist k e).ret = s.ret := rfl
@[simp] theorem State.setHist_rxBusy (s : State) (k : Nat) (e : Option Bytes) : (s.setHist k e).rxBusy = s.rxBusy := rfl
@[simp] theorem State.setHist_cmds (s : State) (k : Nat) (e : Option Bytes) : (s.setHist k e).cmds = s.cmds := rfl
@[simp] theorem State.setHist_sched (s : State) (k : Nat) (e : Option Bytes) : (s.setHist k e).sched = s.sched := rfl
@[simp] theorem State.setHist_link (s : State) (k : Nat) (e : Option Bytes) : (s.setHist k e).link = s.link := rfl
@[simp] theorem State.setHist_rbSize (s : State) (k : Nat) (e : Option Bytes) : (s.setHist k e).rbSize = s.rbSize := rfl
@[simp] theorem State.setHist_rb (s : State) (k : Nat) (e : Option Bytes) : (s.setHist k e).rb = s.rb := rfl
@[simp] theorem State.setHist_pendAt (s : State) (k : Nat) (e : Option Bytes) (j : Nat) : (s.setHist k e).pendAt j = s.pendAt j := rfl

/-! ### setPend -/

@[simp] theorem State.setPend_cfg (s : State) (k : Nat) (b : Bool) : (s.setPend k b).cfg = s.cfg := rfl
@[simp] theorem State.setPend_pidCtr (s : State) (k : Nat) (b : Bool) : (s.setPend k b).pidCtr = s.pidCtr := rfl
@[simp] theorem State.setPend_tidCtr (s : State) (k : Nat) (b : Bool) : (s.setPend k b).tidCtr = s.tidCtr := rfl
@[simp] theorem State.setPend_faults (s : State) (k : Nat) (b : Bool) : (s.setPend k b).faults = s.faults := rfl
@[simp] theorem State.setPend_hist (s : State) (k : Nat) (b : Bool) : (s.setPend k b).hist = s.hist := rfl
@[simp] theorem State.setPend_pend (s : State) (k : Nat) (b : Bool) : (s.setPend k b).pend = s.pend.setIfInBounds k b := rfl
@[simp] theorem State.setPend_rbMem (s : State) (k : Nat) (b : Bool) : (s.setPend k b).rbMem = s.rbMem := rfl
@[simp] theorem State.setPend_rbHead (s : State) (k : Nat) (b : Bool) : (s.setPend k b).rbHead = s.rbHead := rfl
@[simp] theorem State.setPend_rbTail (s : State) (k : Nat) (b : Bool) : (s.setPend k b).rbTail = s.rbTail := rfl
@[simp] theorem State.setPend_rbCap (s : State) (k : Nat) (b : Bool) : (s.setPend k b).rbCap = s.rbCap := rfl
@[simp] theorem State.setPend_tx (s : State) (k : Nat) (b : Bool) : (s.setPend k b).tx = s.tx := rfl
@[simp] theorem State.setPend_ev (s : State) (k : Nat) (b : Bool) : (s.setPend k b).ev = s.ev := rfl
@[simp] theorem State.setPend_ret (s : State) (k : Nat) (b : Bool) : (s.setPend k b).ret = s.ret := rfl
@[simp] theorem State.setPend_rxBusy (s : State) (k : Nat) (b : Bool) : (s.setPend k b).rxBusy = s.rxBusy := rfl
@[simp] theorem State.setPend_cmds (s : State) (k : Nat) (b : Bool) : (s.setPend k b).cmds = s.cmds := rfl
@[simp] theorem State.setPend_sched (s : State) (k : Nat) (b : Bool) : (s.setPend k b).sched = s.sched := rfl
@[simp] theorem State.setPend_link (s : State) (k : Nat) (b : Bool) : (s.setPend k b).link = s.link := rfl
@[simp] theorem State.setPend_rbSize (s : State) (k : Nat) (b : Bool) : (s.setPend k b).rbSize = s.rbSize := rfl
@[simp] theorem State.setPend_rb (s : State) (k : Nat) (b : Bool) : (s.setPend k b).rb = s.rb := rfl
@[simp] theorem State.setPend_histAt (s : State) (k : Nat) (b : Bool) (j : Nat) : (s.setPend k b).histAt j = s.histAt j := rfl

/-! ### takeFault -/

@[simp] theorem State.takeFault_cfg (s : State) (f : FaultInfo) : (s.takeFault f).cfg = s.cfg := rfl
@[simp] theorem State.takeFault_pidCtr (s : State) (f : FaultInfo) : (s.takeFault f).pidCtr = s.pidCtr := rfl
@[simp] theorem State.takeFault_tidCtr (s : State) (f : FaultInfo) : (s.takeFault f).tidCtr = s.tidCtr := rfl
@[simp] theorem State.takeFault_faults (s : State) (f : FaultInfo) : (s.takeFault f).faults = s.faults ||| f.flag := rfl
@[simp] theorem State.takeFault_hist (s : State) (f : FaultInfo) : (s.takeFault f).hist = s.hist := rfl
@[simp] theorem State.takeFault_pend (s : State) (f : FaultInfo) : (s.takeFault f).pend = s.pend := rfl
@[simp] theorem State.takeFault_rbMem (s : State) (f : FaultInfo) : (s.takeFault f).rbMem = s.rbMem := rfl
@[simp] theorem State.takeFault_rbHead (s : State) (f : FaultInfo) : (s.takeFault f).rbHead = s.rbHead := rfl
@[simp] theorem State.takeFault_rbTail (s : State) (f : FaultInfo) : (s.takeFault f).rbTail = s.rbTail := rfl
@[simp] theorem State.takeFault_rbCap (s : State) (f : FaultInfo) : (s.takeFault f).rbCap = s.rbCap := rfl
@[simp] theorem State.takeFault_tx (s : State) (f : FaultInfo) : (s.takeFault f).tx = s.tx := rfl
@[simp] theorem State.takeFault_ev (s : State) (f : FaultInfo) : (s.takeFault f).ev = s.ev ++ [.fault f] := rfl
@[simp] theorem State.takeFault_ret (s : State) (f : FaultInfo) : (s.takeFault f).ret = s.ret := rfl
@[simp] theorem State.takeFault_rxBusy (s : State) (f : FaultInfo) : (s.takeFault f).rxBusy = s.rxBusy := rfl
@[simp] theorem State.takeFault_cmds (s : State) (f : FaultInfo) : (s.takeFault f).cmds = s.cmds := rfl
@[simp] theorem State.takeFault_sched (s : State) (f : FaultInfo) : (s.takeFault f).sched = s.sched := rfl
@[simp] theorem State.takeFault_link (s : State) (f : FaultInfo) : (s.takeFault f).link = s.link := rfl
@[simp] theorem State.takeFault_rbSize (s : State) (f : FaultInfo) : (s.takeFault f).rbSize = s.rbSize := rfl
@[simp] theorem State.takeFault_rb (s : State) (f : FaultInfo) : (s.takeFault f).rb = s.rb := rfl
@[simp] theorem State.takeFault_histAt (s : State) (f : FaultInfo) (j : Nat) : (s.takeFault f).histAt j = s.histAt j := rfl
@[simp] theorem State.takeFault_pendAt (s : State) (f : FaultInfo) (j : Nat) : (s.takeFault f).pendAt j = s.pendAt j := rfl

/-! ### allocPid -/

@[simp] theorem allocPid_cfg (s : State) : ((allocPid s).1).cfg = s.cfg := rfl
@[simp] theorem allocPid_pidCtr (s : State) : ((allocPid s).1).pidCtr = nextId s.pidCtr := rfl
@[simp] theorem allocPid_tidCtr (s : State) : ((allocPid s).1).tidCtr = s.tidCtr := rfl
@[simp] theorem allocPid_faults (s : State) : ((allocPid s).1).faults = s.faults := rfl
@[simp] theorem allocPid_hist (s : State) : ((allocPid s).1).hist = s.hist := rfl
@[simp] theorem allocPid_pend (s : State) : ((allocPid s).1).pend = s.pend := rfl
@[simp] theorem allocPid_rbMem (s : State) : ((allocPid s).1).rbMem = s.rbMem := rfl
@[simp] theorem allocPid_rbHead (s : State) : ((allocPid s).1).rbHead = s.rbHead := rfl
@[simp] theorem allocPid_rbTail (s : State) : ((allocPid s).1).rbTail = s.rbTail := rfl
@[simp] theorem allocPid_rbCap (s : State) : ((allocPid s).1).rbCap = s.rbCap := rfl
@[simp] theorem allocPid_tx (s : State) : ((allocPid s).1).tx = s.tx := rfl
@[simp] theorem allocPid_ev (s : State) : ((allocPid s).1).ev = s.ev := rfl
@[simp] theorem allocPid_ret (s : State) : ((allocPid s).1).ret = s.ret := rfl
@[simp] theorem allocPid_rxBusy (s : State) : ((allocPid s).1).rxBusy = s.rxBusy := rfl
@[simp] theorem allocPid_cmds (s : State) : ((allocPid s).1).cmds = s.cmds := rfl
@[simp] theorem allocPid_sched (s : State) : ((allocPid s).1).sched = s.sched := rfl
@[simp] theorem allocPid_link (s : State) : ((allocPid s).1).link = s.link := rfl
@[simp] theorem allocPid_rbSize (s : State) : ((allocPid s).1).rbSize = s.rbSize := rfl
@[simp] theorem allocPid_rb (s : State) : ((allocPid s).1).rb = s.rb := rfl
@[simp] theorem allocPid_histAt (s : State) (j : Nat) : ((allocPid s).1).histAt j = s.histAt j := rfl
@[simp] theorem allocPid_pendAt (s : State) (j : Nat) : ((allocPid s).1).pendAt j = s.pendAt j := rfl

/-! ### allocTid -/

@[simp] theorem allocTid_cfg (s : State) : ((allocTid s).1).cfg = s.cfg := rfl
@[simp] theorem allocTid_pidCtr (s : State) : ((allocTid s).1).pidCtr = s.pidCtr := rfl
@[simp] theorem allocTid_tidCtr (s : State) : ((allocTid s).1).tidCtr = nextId s.tidCtr := rfl
@[simp] theorem allocTid_faults (s : State) : ((allocTid s).1).faults = s.faults := rfl
@[simp] theorem allocTid_hist (s : State) : ((allocTid s).1).hist = s.hist := rfl
@[simp] theorem allocTid_pend (s : State) : ((allocTid s).1).pend = s.pend := rfl
@[simp] theorem allocTid_rbMem (s : State) : ((allocTid s).1).rbMem = s.rbMem := rfl
@[simp] theorem allocTid_rbHead (s : State) : ((allocTid s).1).rbHead = s.rbHead := rfl
@[simp] theorem allocTid_rbTail (s : State) : ((allocTid s).1).rbTail = s.rbTail := rfl
@[simp] theorem allocTid_rbCap (s : State) : ((allocTid s).1).rbCap = s.rbCap := rfl
@[simp] theorem allocTid_tx (s : State) : ((allocTid s).1).tx = s.tx := rfl
@[simp] theorem allocTid_ev (s : State) : ((allocTid s).1).ev = s.ev := rfl
@[simp] theorem allocTid_ret (s : State) : ((allocTid s).1).ret = s.ret := rfl
@[simp] theorem allocTid_rxBusy (s : State) : ((allocTid s).1).rxBusy = s.rxBusy := rfl
@[simp] theorem allocTid_cmds (s : State) : ((allocTid s).1).cmds = s.cmds := rfl
@[simp] theorem allocTid_sched (s : State) : ((allocTid s).1).sched = s.sched := rfl
@[simp] theorem allocTid_link (s : State) : ((allocTid s).1).link = s.link := rfl
@[simp] theorem allocTid_rbSize (s : State) : ((allocTid s).1).rbSize = s.rbSize := rfl
@[simp] theorem allocTid_rb (s : State) : ((allocTid s).1).rb = s.rb := rfl
@[simp] theorem allocTid_histAt (s : State) (j : Nat) : ((allocTid s).1).histAt j = s.histAt j := rfl
@[simp] theorem allocTid_pendAt (s : State) (j : Nat) : ((allocTid s).1).pendAt j = s.pendAt j := rfl

/-! ### pushTx -/

@[simp] theorem State.pushTx_cfg (s : State) (f : Bytes) : (s.pushTx f).cfg = s.cfg := rfl
@[simp] theorem State.pushTx_pidCtr (s : State) (f : Bytes) : (s.pushTx f).pidCtr = s.pidCtr := rfl
@[simp] theorem State.pushTx_tidCtr (s : State) (f : Bytes) : (s.pushTx f).tidCtr = s.tidCtr := rfl
@[simp] theorem State.pushTx_faults (s : State) (f : Bytes) : (s.pushTx f).faults = s.faults := rfl
@[simp] theorem State.pushTx_hist (s : State) (f : Bytes) : (s.pushTx f).hist = s.hist := rfl
@[simp] theorem State.pushTx_pend (s : State) (f : Bytes) : (s.pushTx f).pend = s.pend := rfl
@[simp] theorem State.pushTx_rbMem (s : State) (f : Bytes) : (s.pushTx f).rbMem = s.rbMem := rfl
@[simp] theorem State.pushTx_rbHead (s : State) (f : Bytes) : (s.pushTx f).rbHead = s.rbHead := rfl
@[simp] theorem State.pushTx_rbTail (s : State) (f : Bytes) : (s.pushTx f).rbTail = s.rbTail := rfl
@[simp] theorem State.pushTx_rbCap (s : State) (f : Bytes) : (s.pushTx f).rbCap = s.rbCap := rfl
@[simp] theorem State.pushTx_tx (s : State) (f : Bytes) : (s.pushTx f).tx = s.tx ++ [f] := rfl
@[simp] theorem State.pushTx_ev (s : State) (f : Bytes) : (s.pushTx f).ev = s.ev := rfl
@[simp] theorem State.pushTx_ret (s : State) (f : Bytes) : (s.pushTx f).ret = s.ret := rfl
@[simp] theorem State.pushTx_rxBusy (s : State) (f : Bytes) : (s.pushTx f).rxBusy = s.rxBusy := rfl
@[simp] theorem State.pushTx_cmds (s : State) (f : Bytes) : (s.pushTx f).cmds = s.cmds := rfl
@[simp] theorem State.pushTx_sched (s : State) (f : Bytes) : (s.pushTx f).sched = s.sched := rfl
@[simp] theorem State.pushTx_link (s : State) (f : Bytes) : (s.pushTx f).link = s.link := rfl
@[simp] theorem State.pushTx_rbSize (s : State) (f : Bytes) : (s.pushTx f).rbSize = s.rbSize := rfl
@[simp] theorem State.pushTx_rb (s : State) (f : Bytes) : (s.pushTx f).rb = s.rb := rfl
@[simp] theorem State.pushTx_histAt (s : State) (f : Bytes) (j : Nat) : (s.pushTx f).histAt j = s.histAt j := rfl
@[simp] theorem State.pushTx_pendAt (s : State) (f : Bytes) (j : Nat) : (s.pushTx f).pendAt j = s.pendAt j := rfl

/-! ### dropLink -/

@[simp] theorem State.dropLink_cfg (s : State) : (s.dropLink).cfg = s.cfg := rfl
@[simp] theorem State.dropLink_pidCtr (s : State) : (s.dropLink).pidCtr = s.pidCtr := rfl
@[simp] theorem State.dropLink_tidCtr (s : State) : (s.dropLink).tidCtr = s.tidCtr := rfl
@[simp] theorem State.dropLink_faults (s : State) : (s.dropLink).faults = s.faults := rfl
@[simp] theorem State.dropLink_hist (s : State) : (s.dropLink).hist = s.hist := rfl
@[simp] theorem State.dropLink_pend (s : State) : (s.dropLink).pend = s.pend := rfl
@[simp] theorem State.dropLink_rbMem (s : State) : (s.dropLink).rbMem = s.rbMem := rfl
@[simp] theorem State.dropLink_rbHead (s : State) : (s.dropLink).rbHead = s.rbHead := rfl
@[simp] theorem State.dropLink_rbTail (s : State) : (s.dropLink).rbTail = s.rbTail := rfl
@[simp] theorem State.dropLink_rbCap (s : State) : (s.dropLink).rbCap = s.rbCap := rfl
@[simp] theorem State.dropLink_tx (s : State) : (s.dropLink).tx = s.tx := rfl
@[simp] theorem State.dropLink_ev (s : State) : (s.dropLink).ev = s.ev := rfl
@[simp] theorem State.dropLink_ret (s : State) : (s.dropLink).ret = s.ret := rfl
@[simp] theorem State.dropLink_rxBusy (s : State) : (s.dropLink).rxBusy = s.rxBusy := rfl
@[simp] theorem State.dropLink_cmds (s : State) : (s.dropLink).cmds = s.cmds := rfl
@[simp] theorem State.dropLink_sched (s : State) : (s.dropLink).sched = s.sched := rfl
@[simp] theorem State.dropLink_link (s : State) : (s.dropLink).link = s.link.tail := rfl
@[simp] theorem State.dropLink_rbSize (s : State) : (s.dropLink).rbSize = s.rbSize := rfl
@[simp] theorem State.dropLink_rb (s : State) : (s.dropLink).rb = s.rb := rfl
@[simp] theorem State.dropLink_histAt (s : State) (j : Nat) : (s.dropLink).histAt j = s.histAt j := rfl
@[simp] theorem State.dropLink_pendAt (s : State) (j : Nat) : (s.dropLink).pendAt j = s.pendAt j := rfl

/-! ### setBusy -/

@[simp] theorem State.setBusy_cfg (s : State) (b : Bool) : (s.setBusy b).cfg = s.cfg := rfl
@[simp] theorem State.setBusy_pidCtr (s : State) (b : Bool) : (s.setBusy b).pidCtr = s.pidCtr := rfl
@[simp] theorem State.setBusy_tidCtr (s : State) (b : Bool) : (s.setBusy b).tidCtr = s.tidCtr := rfl
@[simp] theorem State.setBusy_faults (s : State) (b : Bool) : (s.setBusy b).faults = s.faults := rfl
@[simp] theorem State.setBusy_hist (s : State) (b : Bool) : (s.setBusy b).hist = s.hist := rfl
@[simp] theorem State.setBusy_pend (s : State) (b : Bool) : (s.setBusy b).pend = s.pend := rfl
@[simp] theorem State.setBusy_rbMem (s : State) (b : Bool) : (s.setBusy b).rbMem = s.rbMem := rfl
@[simp] theorem State.setBusy_rbHead (s : State) (b : Bool) : (s.setBusy b).rbHead = s.rbHead := rfl
@[simp] theorem State.setBusy_rbTail (s : State) (b : Bool) : (s.setBusy b).rbTail = s.rbTail := rfl
@[simp] theorem State.setBusy_rbCap (s : State) (b : Bool) : (s.setBusy b).rbCap = s.rbCap := rfl
@[simp] theorem State.setBusy_tx (s : State) (b : Bool) : (s.setBusy b).tx = s.tx := rfl
@[simp] theorem State.setBusy_ev (s : State) (b : Bool) : (s.setBusy b).ev = s.ev := rfl
@[simp] theorem State.setBusy_ret (s : State) (b : Bool) : (s.setBusy b).ret = s.ret := rfl
@[simp] theorem State.setBusy_rxBusy (s : State) (b : Bool) : (s.setBusy b).rxBusy = b := rfl
@[simp] theorem State.setBusy_cmds (s : State) (b : Bool) : (s.setBusy b).cmds = s.cmds := rfl
@[simp] theorem State.setBusy_sched (s : State) (b : Bool) : (s.setBusy b).sched = s.sched := rfl
@[simp] theorem State.setBusy_link (s : State) (b : Bool) : (s.setBusy b).link = s.link := rfl
@[simp] theorem State.setBusy_rbSize (s : State) (b : Bool) : (s.setBusy b).rbSize = s.rbSize := rfl
@[simp] theorem State.setBusy_rb (s : State) (b : Bool) : (s.setBusy b).rb = s.rb := rfl
@[simp] theorem State.setBusy_histAt (s : State) (b : Bool) (j : Nat) : (s.setBusy b).histAt j = s.histAt j := rfl
@[simp] theorem State.setBusy_pendAt (s : State) (b : Bool) (j : Nat) : (s.setBusy b).pendAt j = s.pendAt j := rfl

/-! ### setCmds -/

@[simp] theorem State.setCmds_cfg (s : State) (l : List Instr) : (s.setCmds l).cfg = s.cfg := rfl
@[simp] theorem State.setCmds_pidCtr (s : State) (l : List Instr) : (s.setCmds l).pidCtr = s.pidCtr := rfl
@[simp] theorem State.setCmds_tidCtr (s : State) (l : List Instr) : (s.setCmds l).tidCtr = s.tidCtr := rfl
@[simp] theorem State.setCmds_faults (s : State) (l : List Instr) : (s.setCmds l).faults = s.faults := rfl
@[simp] theorem State.setCmds_hist (s : State) (l : List Instr) : (s.setCmds l).hist = s.hist := rfl
@[simp] theorem State.setCmds_pend (s : State) (l : List Instr) : (s.setCmds l).pend = s.pend := rfl
@[simp] theorem State.setCmds_rbMem (s : State) (l : List Instr) : (s.setCmds l).rbMem = s.rbMem := rfl
@[simp] theorem State.setCmds_rbHead (s : State) (l : List Instr) : (s.setCmds l).rbHead = s.rbHead := rfl
@[simp] theorem State.setCmds_rbTail (s : State) (l : List Instr) : (s.setCmds l).rbTail = s.rbTail := rfl
@[simp] theorem State.setCmds_rbCap (s : State) (l : List Instr) : (s.setCmds l).rbCap = s.rbCap := rfl
@[simp] theorem State.setCmds_tx (s : State) (l : List Instr) : (s.setCmds l).tx = s.tx := rfl
@[simp] theorem State.setCmds_ev (s : State) (l : List Instr) : (s.setCmds l).ev = s.ev := rfl
@[simp] theorem State.setCmds_ret (s : State) (l : List Instr) : (s.setCmds l).ret = s.ret := rfl
@[simp] theorem State.setCmds_rxBusy (s : State) (l : List Instr) : (s.setCmds l).rxBusy = s.rxBusy := rfl
@[simp] theorem State.setCmds_cmds (s : State) (l : List Instr) : (s.setCmds l).cmds = l := rfl
@[simp] theorem State.setCmds_sched (s : State) (l : List Instr) : (s.setCmds l).sched = s.sched := rfl
@[simp] theorem State.setCmds_link (s : State) (l : List Instr) : (s.setCmds l).link = s.link := rfl
@[simp] theorem State.setCmds_rbSize (s : State) (l : List Instr) : (s.setCmds l).rbSize = s.rbSize := rfl
@[simp] theorem State.setCmds_rb (s : State) (l : List Instr) : (s.setCmds l).rb = s.rb := rfl
@[simp] theorem State.setCmds_histAt (s : State) (l : List Instr) (j : Nat) : (s.setCmds l).histAt j = s.histAt j := rfl
@[simp] theorem State.setCmds_pendAt (s : State) (l : List Instr) (j : Nat) : (s.setCmds l).pendAt j = s.pendAt j := rfl

/-! ### setSched -/

@[simp] theorem State.setSched_cfg (s : State) (l : List Agent) : (s.setSched l).cfg = s.cfg := rfl
@[simp] theorem State.setSched_pidCtr (s : State) (l : List Agent) : (s.setSched l).pidCtr = s.pidCtr := rfl
@[simp] theorem State.setSched_tidCtr (s : State) (l : List Agent) : (s.setSched l).tidCtr = s.tidCtr := rfl
@[simp] theorem State.setSched_faults (s : State) (l : List Agent) : (s.setSched l).faults = s.faults := rfl
@[simp] theorem State.setSched_hist (s : State) (l : List Agent) : (s.setSched l).hist = s.hist := rfl
@[simp] theorem State.setSched_pend (s : State) (l : List Agent) : (s.setSched l).pend = s.pend := rfl
@[simp] theorem State.setSched_rbMem (s : State) (l : List Agent) : (s.setSched l).rbMem = s.rbMem := rfl
@[simp] theorem State.setSched_rbHead (s : State) (l : List Agent) : (s.setSched l).rbHead = s.rbHead := rfl
@[simp] theorem State.setSched_rbTail (s : State) (l : List Agent) : (s.setSched l).rbTail = s.rbTail := rfl
@[simp] theorem State.setSched_rbCap (s : State) (l : List Agent) : (s.setSched l).rbCap = s.rbCap := rfl
@[simp] theorem State.setSched_tx (s : State) (l : List Agent) : (s.setSched l).tx = s.tx := rfl
@[simp] theorem State.setSched_ev (s : State) (l : List Agent) : (s.setSched l).ev = s.ev := rfl
@[simp] theorem State.setSched_ret (s : State) (l : List Agent) : (s.setSched l).ret = s.ret := rfl
@[simp] theorem State.setSched_rxBusy (s : State) (l : List Agent) : (s.setSched l).rxBusy = s.rxBusy := rfl
@[simp] theorem State.setSched_cmds (s : State) (l : List Agent) : (s.setSched l).cmds = s.cmds := rfl
@[simp] theorem State.setSched_sched (s : State) (l : List Agent) : (s.setSched l).sched = l := rfl
@[simp] theorem State.setSched_link (s : State) (l : List Agent) : (s.setSched l).link = s.link := rfl
@[simp] theorem State.setSched_rbSize (s : State) (l : List Agent) : (s.setSched l).rbSize = s.rbSize := rfl
@[simp] theorem State.setSched_rb (s : State) (l : List Agent) : (s.setSched l).rb = s.rb := rfl
@[simp] theorem State.setSched_histAt (s : State) (l : List Agent) (j : Nat) : (s.setSched l).histAt j = s.histAt j := rfl
@[simp] theorem State.setSched_pendAt (s : State) (l : List Agent) (j : Nat) : (s.setSched l).pendAt j = s.pendAt j := rfl

end Sys2Proof.Machine
end

