-- ==== Sys2Proof/Laws/Ring.lean ====
section
/-! SUPPORT. The ring buffer: what the physical operations do to the logical view, and that they keep the cursors
and the storage in order (10_state.md R29 to R31, R36). -/

namespace Sys2Proof.Machine

@[simp] theorem State.rb_length (s : State) : s.rb.length = s.rbSize := by simp [State.rb]

theorem State.rb_getElem? (s : State) (i : Nat) :
    s.rb[i]? = if i < s.rbSize then some (s.rbMem.read (s.rbHead + i)) else none :=
  Memory.readBytes_getElem? _ _ _ _

theorem State.rb_eq_nil (s : State) : s.rb = [] ↔ s.rbSize = 0 := by
  rw [← List.length_eq_zero_iff, s.rb_length]

/-! ### What the physical operations leave alone -/

/-- Two states that differ in the ring buffer only. -/
def State.ringOnly (s t : State) : Prop := t = s.setRing t.rbMem t.rbHead t.rbTail t.rbCap

theorem State.setRing_ringOnly (s : State) (m : Memory) (h t c : Nat) : s.ringOnly (s.setRing m h t c) := rfl

theorem State.ringOnly_trans {s t u : State} (h : s.ringOnly t) (h' : t.ringOnly u) : s.ringOnly u := by
  unfold State.ringOnly at *
  rw [h', h]; rfl

theorem State.makeRoom_ringOnly (s : State) (n : Nat) : s.ringOnly (s.makeRoom n) := by
  unfold State.makeRoom
  split
  · rfl
  · split <;> rfl

theorem State.pushTail_ringOnly (s : State) (bs : Bytes) : s.ringOnly (s.pushTail bs) := by
  unfold State.pushTail
  split
  · rfl
  · exact State.ringOnly_trans (s.makeRoom_ringOnly _) rfl

theorem State.dropHead_ringOnly (s : State) (n : Nat) : s.ringOnly (s.dropHead n) := by
  unfold State.dropHead
  split <;> rfl

@[simp] theorem State.pushTail_cfg (s : State) (bs : Bytes) : (s.pushTail bs).cfg = s.cfg := by
  rw [s.pushTail_ringOnly bs]; rfl
@[simp] theorem State.pushTail_pidCtr (s : State) (bs : Bytes) : (s.pushTail bs).pidCtr = s.pidCtr := by
  rw [s.pushTail_ringOnly bs]; rfl
@[simp] theorem State.pushTail_tidCtr (s : State) (bs : Bytes) : (s.pushTail bs).tidCtr = s.tidCtr := by
  rw [s.pushTail_ringOnly bs]; rfl
@[simp] theorem State.pushTail_faults (s : State) (bs : Bytes) : (s.pushTail bs).faults = s.faults := by
  rw [s.pushTail_ringOnly bs]; rfl
@[simp] theorem State.pushTail_hist (s : State) (bs : Bytes) : (s.pushTail bs).hist = s.hist := by
  rw [s.pushTail_ringOnly bs]; rfl
@[simp] theorem State.pushTail_pend (s : State) (bs : Bytes) : (s.pushTail bs).pend = s.pend := by
  rw [s.pushTail_ringOnly bs]; rfl
@[simp] theorem State.pushTail_tx (s : State) (bs : Bytes) : (s.pushTail bs).tx = s.tx := by
  rw [s.pushTail_ringOnly bs]; rfl
@[simp] theorem State.pushTail_ev (s : State) (bs : Bytes) : (s.pushTail bs).ev = s.ev := by
  rw [s.pushTail_ringOnly bs]; rfl
@[simp] theorem State.pushTail_ret (s : State) (bs : Bytes) : (s.pushTail bs).ret = s.ret := by
  rw [s.pushTail_ringOnly bs]; rfl
@[simp] theorem State.pushTail_rxBusy (s : State) (bs : Bytes) : (s.pushTail bs).rxBusy = s.rxBusy := by
  rw [s.pushTail_ringOnly bs]; rfl
@[simp] theorem State.pushTail_cmds (s : State) (bs : Bytes) : (s.pushTail bs).cmds = s.cmds := by
  rw [s.pushTail_ringOnly bs]; rfl
@[simp] theorem State.pushTail_sched (s : State) (bs : Bytes) : (s.pushTail bs).sched = s.sched := by
  rw [s.pushTail_ringOnly bs]; rfl
@[simp] theorem State.pushTail_link (s : State) (bs : Bytes) : (s.pushTail bs).link = s.link := by
  rw [s.pushTail_ringOnly bs]; rfl
@[simp] theorem State.pushTail_histAt (s : State) (bs : Bytes) (k : Nat) : (s.pushTail bs).histAt k = s.histAt k := by
  rw [s.pushTail_ringOnly bs]; rfl
@[simp] theorem State.pushTail_pendAt (s : State) (bs : Bytes) (k : Nat) : (s.pushTail bs).pendAt k = s.pendAt k := by
  rw [s.pushTail_ringOnly bs]; rfl
@[simp] theorem State.dropHead_cfg (s : State) (n : Nat) : (s.dropHead n).cfg = s.cfg := by
  rw [s.dropHead_ringOnly n]; rfl
@[simp] theorem State.dropHead_pidCtr (s : State) (n : Nat) : (s.dropHead n).pidCtr = s.pidCtr := by
  rw [s.dropHead_ringOnly n]; rfl
@[simp] theorem State.dropHead_tidCtr (s : State) (n : Nat) : (s.dropHead n).tidCtr = s.tidCtr := by
  rw [s.dropHead_ringOnly n]; rfl
@[simp] theorem State.dropHead_faults (s : State) (n : Nat) : (s.dropHead n).faults = s.faults := by
  rw [s.dropHead_ringOnly n]; rfl
@[simp] theorem State.dropHead_hist (s : State) (n : Nat) : (s.dropHead n).hist = s.hist := by
  rw [s.dropHead_ringOnly n]; rfl
@[simp] theorem State.dropHead_pend (s : State) (n : Nat) : (s.dropHead n).pend = s.pend := by
  rw [s.dropHead_ringOnly n]; rfl
@[simp] theorem State.dropHead_tx (s : State) (n : Nat) : (s.dropHead n).tx = s.tx := by
  rw [s.dropHead_ringOnly n]; rfl
@[simp] theorem State.dropHead_ev (s : State) (n : Nat) : (s.dropHead n).ev = s.ev := by
  rw [s.dropHead_ringOnly n]; rfl
@[simp] theorem State.dropHead_ret (s : State) (n : Nat) : (s.dropHead n).ret = s.ret := by
  rw [s.dropHead_ringOnly n]; rfl
@[simp] theorem State.dropHead_rxBusy (s : State) (n : Nat) : (s.dropHead n).rxBusy = s.rxBusy := by
  rw [s.dropHead_ringOnly n]; rfl
@[simp] theorem State.dropHead_cmds (s : State) (n : Nat) : (s.dropHead n).cmds = s.cmds := by
  rw [s.dropHead_ringOnly n]; rfl
@[simp] theorem State.dropHead_sched (s : State) (n : Nat) : (s.dropHead n).sched = s.sched := by
  rw [s.dropHead_ringOnly n]; rfl
@[simp] theorem State.dropHead_link (s : State) (n : Nat) : (s.dropHead n).link = s.link := by
  rw [s.dropHead_ringOnly n]; rfl
@[simp] theorem State.dropHead_histAt (s : State) (n : Nat) (k : Nat) : (s.dropHead n).histAt k = s.histAt k := by
  rw [s.dropHead_ringOnly n]; rfl
@[simp] theorem State.dropHead_pendAt (s : State) (n : Nat) (k : Nat) : (s.dropHead n).pendAt k = s.pendAt k := by
  rw [s.dropHead_ringOnly n]; rfl

/-! ### The logical view -/

/-- Moving the head over `n` bytes of the buffer drops them from the logical view. -/
theorem State.dropHead_rb (s : State) {n : Nat} (h : n ≤ s.rbSize) : (s.dropHead n).rb = s.rb.drop n := by
  apply List.ext_getElem?
  intro i
  rw [List.getElem?_drop, State.rb_getElem?, State.rb_getElem?]
  unfold State.rbSize at *
  unfold State.dropHead
  split
  · simp; omega
  · by_cases hi : s.rbHead + n + i < s.rbTail
    · rw [if_pos (by simp; omega), if_pos (by omega)]; simp [Nat.add_assoc]
    · rw [if_neg (by simp; omega), if_neg (by omega)]

@[simp] theorem State.dropHead_rbMem (s : State) (n : Nat) : (s.dropHead n).rbMem = s.rbMem := by
  unfold State.dropHead; split <;> rfl

@[simp] theorem State.dropHead_rbCap (s : State) (n : Nat) : (s.dropHead n).rbCap = s.rbCap := by
  unfold State.dropHead; split <;> rfl

theorem State.dropHead_rbSize (s : State) {n : Nat} (h : n ≤ s.rbSize) : (s.dropHead n).rbSize = s.rbSize - n := by
  rw [← State.rb_length, State.dropHead_rb s h, List.length_drop, State.rb_length]

/-- Making room moves no byte of the logical view. -/
theorem State.makeRoom_rb (s : State) (n : Nat) : (s.makeRoom n).rb = s.rb := by
  unfold State.makeRoom
  split
  · rfl
  · split
    · simpa [State.rb, State.rbSize] using Memory.readBytes_writeBytes s.rbMem 0 s.rb
    · simpa [State.rb, State.rbSize] using Memory.readBytes_writeBytes [] 0 s.rb

/-- Storing at the tail extends the logical view. -/
theorem State.storeTail_rb (s : State) (bs : Bytes) (h : s.rbHead ≤ s.rbTail) : (s.storeTail bs).rb = s.rb ++ bs := by
  have e1 : s.rbTail + bs.length - s.rbHead = (s.rbTail - s.rbHead) + bs.length := by omega
  have e2 : s.rbHead + (s.rbTail - s.rbHead) = s.rbTail := by omega
  unfold State.storeTail State.rb State.rbSize
  simp only [State.setRing_rbMem, State.setRing_rbHead, State.setRing_rbTail, e1, Memory.readBytes_append, e2]
  congr 1
  · apply Memory.readBytes_congr
    intro i hi
    rw [Memory.read_writeBytes, if_neg (by omega)]
  · exact Memory.readBytes_writeBytes _ _ _

theorem State.makeRoom_le (s : State) (n : Nat) (h : s.rbHead ≤ s.rbTail) :
    (s.makeRoom n).rbHead ≤ (s.makeRoom n).rbTail := by
  unfold State.makeRoom
  split
  · exact h
  · split <;> simp

/-- Appending extends the logical view, whichever of the three cases of R122 applies. -/
theorem State.pushTail_rb (s : State) (bs : Bytes) (h : s.rbHead ≤ s.rbTail) : (s.pushTail bs).rb = s.rb ++ bs := by
  unfold State.pushTail
  split
  · simp_all
  · rw [State.storeTail_rb _ _ (s.makeRoom_le _ h), State.makeRoom_rb]

/-! ### The cursors and the storage -/

theorem Params.capFits_le {c : Params} {m n : Nat} (h : c.capFits n = true) (hm : m ≤ n) : c.capFits m = true := by
  unfold Params.capFits at *
  split at h <;> simp_all
  omega

/-- After making room there is room, and the capacity is in bounds. -/
theorem State.makeRoom_cursors (s : State) (n : Nat) (h : s.cursorsOk)
    (fit : s.cfg.capFits (s.rbSize + n) = true) :
    (s.makeRoom n).rbHead ≤ (s.makeRoom n).rbTail ∧ (s.makeRoom n).rbTail + n ≤ (s.makeRoom n).rbCap ∧
      s.cfg.capFits (s.makeRoom n).rbCap = true ∧ s.rbCap ≤ (s.makeRoom n).rbCap ∧
      ((s.makeRoom n).rbHead = (s.makeRoom n).rbTail → (s.makeRoom n).rbHead = 0) := by
  obtain ⟨h1, h2, h3, h4⟩ := h
  unfold State.makeRoom
  split
  · exact ⟨h1, by omega, h3, Nat.le_refl _, h4⟩
  · split
    · simp only [State.setRing_rbHead, State.setRing_rbTail, State.setRing_rbCap]
      exact ⟨by omega, by omega, h3, Nat.le_refl _, fun _ => trivial⟩
    · simp only [State.setRing_rbHead, State.setRing_rbTail, State.setRing_rbCap]
      unfold State.rbSize at *
      unfold grownCap
      unfold Params.capFits at *
      cases hc : s.cfg.rbCapMax with
      | none => simp; omega
      | some m => simp [hc] at h3 fit ⊢; omega

/-- Appending what fits keeps the cursors in order (R36). -/
theorem State.pushTail_cursorsOk (s : State) (bs : Bytes) (h : s.cursorsOk)
    (fit : s.cfg.capFits (s.rbSize + bs.length) = true) : (s.pushTail bs).cursorsOk := by
  unfold State.pushTail
  split
  · exact h
  · obtain ⟨h1, h2, h3, -, -⟩ := s.makeRoom_cursors bs.length h fit
    have hc : (s.makeRoom bs.length).cfg = s.cfg := by rw [s.makeRoom_ringOnly]; rfl
    refine ⟨?_, ?_, ?_, ?_⟩
    · simp [State.storeTail]; omega
    · simpa [State.storeTail] using h2
    · simpa [State.storeTail, hc] using h3
    · simp [State.storeTail]; omega

/-- Moving the head over bytes of the buffer keeps the cursors in order (R36). -/
theorem State.dropHead_cursorsOk (s : State) {n : Nat} (h : s.cursorsOk) (hn : n ≤ s.rbSize) :
    (s.dropHead n).cursorsOk := by
  obtain ⟨h1, h2, h3, h4⟩ := h
  unfold State.rbSize at hn
  unfold State.dropHead
  split
  · exact ⟨by simp, by simp, by simpa using h3, by simp⟩
  · exact ⟨by simp; omega, by simpa using h2, by simpa using h3, by simp; omega⟩

/-- Moving the head touches no cell. -/
theorem State.dropHead_storageOk (s : State) (n : Nat) (h : s.storageOk) : (s.dropHead n).storageOk := by
  unfold State.storageOk at *
  simpa using h

/-- Appending what fits keeps the storage in canonical form and within the capacity (R30). -/
theorem State.pushTail_storageOk (s : State) (bs : Bytes) (h : s.cursorsOk) (hs : s.storageOk)
    (fit : s.cfg.capFits (s.rbSize + bs.length) = true) : (s.pushTail bs).storageOk := by
  unfold State.pushTail
  split
  · exact hs
  · obtain ⟨h1, h2, -, h4, -⟩ := s.makeRoom_cursors bs.length h fit
    have hm : (s.makeRoom bs.length).rbMem.wf = true ∧
        ∀ cell ∈ (s.makeRoom bs.length).rbMem, cell.1 < (s.makeRoom bs.length).rbCap := by
      have hsz : s.rbSize ≤ s.rbCap := by have := h.2.1; unfold State.rbSize; omega
      revert h1 h2 h4
      unfold State.makeRoom
      split
      · intros; exact hs
      · split
        · intro _ _ _
          refine ⟨Memory.writeBytes_wf _ _ _ hs.1, fun cell hc => ?_⟩
          rcases Memory.writeBytes_mem _ hc with hc | hc
          · simp at hc ⊢; omega
          · exact hs.2 cell hc
        · intro _ _ h4
          refine ⟨Memory.writeBytes_wf _ _ _ rfl, fun cell hc => ?_⟩
          rcases Memory.writeBytes_mem _ hc with hc | hc
          · simp at hc h4 ⊢; omega
          · simp at hc
    refine ⟨Memory.writeBytes_wf _ _ _ hm.1, fun cell hc => ?_⟩
    rcases Memory.writeBytes_mem _ hc with hc | hc
    · simp [State.storeTail]; omega
    · exact hm.2 cell hc

end Sys2Proof.Machine
end

