-- ==== Sys2Proof/Laws/Ops.lean ====
section
/-! SUPPORT. For each shared operation, what it can do, said once; then, once for all operations, that a property
every primitive update keeps is kept by every instruction. -/

namespace Sys2Proof.Machine

/-! ### How an operation ends -/

@[simp] theorem conclude_ok {α : Type} (g : α → Result) (s : State) (a : α) :
    conclude g (s, .ok a) = .next (s.setRet (g a)) := rfl

@[simp] theorem conclude_fault {α : Type} (g : α → Result) (s : State) (f : FaultInfo) :
    conclude g (s, .fault f) = .next (s.setRet (.fault f)) := rfl

@[simp] theorem conclude_refused {α : Type} (g : α → Result) (s : State) (r : RefuseReason) :
    conclude g (s, .refused r) = .next (s.setRet (.refused r)) := rfl

/-- An operation that ends always gives a next state: the state it left, with its answer in `ret`. -/
theorem conclude_next {α : Type} (g : α → Result) (p : State × Reply α) : ∃ r, conclude g p = .next (p.1.setRet r) := by
  obtain ⟨s, a | f | r⟩ := p
  exacts [⟨_, rfl⟩, ⟨_, rfl⟩, ⟨_, rfl⟩]

/-! ### The ring-buffer operations -/

theorem ringAppend_fits {bs : Bytes} {s : State} (h : s.cfg.capFits (s.rbSize + bs.length) = true) :
    ringAppend bs s = (s.pushTail bs, .ok ()) := by simp [ringAppend, h]

theorem ringAppend_overflows {bs : Bytes} {s : State} (h : s.cfg.capFits (s.rbSize + bs.length) = false) :
    ringAppend bs s = (s.takeFault (.ringOverflow s.rbSize bs.length), .fault (.ringOverflow s.rbSize bs.length)) := by
  simp [ringAppend, h, raise]

theorem ringGet_inside {i : Nat} {s : State} (h : i < s.rbSize) :
    ringGet i s = (s, .ok (s.rbMem.read (s.rbHead + i))) := by simp [ringGet, h]

theorem ringGet_outside {i : Nat} {s : State} (h : s.rbSize ≤ i) :
    ringGet i s = (s.takeFault (.boundsError i s.rbSize), .fault (.boundsError i s.rbSize)) := by
  simp [ringGet, Nat.not_lt.2 h, raise]

theorem ringTake_inside {n : Nat} {s : State} (h : n ≤ s.rbSize) :
    ringTake n s = (s.dropHead n, .ok (s.rb.take n)) := by simp [ringTake, h]

theorem ringTake_outside {n : Nat} {s : State} (h : s.rbSize < n) :
    ringTake n s = (s.takeFault (.boundsError n s.rbSize), .fault (.boundsError n s.rbSize)) := by
  simp [ringTake, Nat.not_le.2 h, raise]

theorem ringSkip_inside {n : Nat} {s : State} (h : n ≤ s.rbSize) : ringSkip n s = (s.dropHead n, .ok ()) := by
  simp [ringSkip, h]

theorem ringSkip_outside {n : Nat} {s : State} (h : s.rbSize < n) :
    ringSkip n s = (s.takeFault (.boundsError n s.rbSize), .fault (.boundsError n s.rbSize)) := by
  simp [ringSkip, Nat.not_le.2 h, raise]

/-- The scan answers the first offset, counted from `i`, that holds the byte. -/
theorem scanFor_some {b : Byte} {bs : Bytes} : ∀ {i k : Nat}, scanFor b i bs = some k →
    ∃ j, k = i + j ∧ bs[j]? = some b ∧ ∀ j' < j, bs[j']? ≠ some b := by
  induction bs with
  | nil => simp [scanFor]
  | cons x t ih =>
    intro i k h
    rw [scanFor] at h
    split at h
    · exact ⟨0, by simp_all⟩
    · rename_i hx
      obtain ⟨j, rfl, h2, h3⟩ := ih h
      refine ⟨j + 1, by omega, by simpa using h2, fun j' hj' => ?_⟩
      cases j' with
      | zero => simpa using hx
      | succ j' => simpa using h3 j' (by omega)

/-- The scan answers NONE when no byte of the string is the one sought. -/
theorem scanFor_none {b : Byte} {bs : Bytes} : ∀ {i : Nat}, scanFor b i bs = none → b ∉ bs := by
  induction bs with
  | nil => simp
  | cons x t ih =>
    intro i h
    rw [scanFor] at h
    split at h
    · cases h
    · rename_i hx
      simpa [Ne.symm hx] using ih h

/-- What RB.FIND found lies in the buffer. -/
theorem ringFind_some {b : Byte} {start k : Nat} {s : State} (h : ringFind b start s = some k) :
    start ≤ k ∧ k < s.rbSize ∧ s.rb[k]? = some b ∧ ∀ j, start ≤ j → j < k → s.rb[j]? ≠ some b := by
  obtain ⟨j, rfl, h2, h3⟩ := scanFor_some h
  rw [List.getElem?_drop] at h2
  refine ⟨by omega, ?_, h2, fun j' h4 h5 => ?_⟩
  · have := (List.getElem?_eq_some_iff.1 h2).1
    rwa [State.rb_length] at this
  · have := h3 (j' - start) (by omega)
    rwa [List.getElem?_drop, show start + (j' - start) = j' by omega] at this

/-! ### Writing to the transport -/

theorem txWrite_taken {f : Bytes} {s : State} (h : s.writable) : txWrite f s = (s.wrote f, .ok ()) := by
  exact if_neg h

theorem txWrite_failed {f : Bytes} {s : State} (h : ¬ s.writable) :
    txWrite f s = (s.writeFailed f, .fault (.transportFault f)) := by
  exact if_pos (not_not.1 h)

theorem sendUnstored_tooLong {env : Bytes} {s : State} (h : s.cfg.maxLen.val < env.length) :
    sendUnstored env s = (s.emit (.refused .wrapId (.lengthError env.length)), .refused (.lengthError env.length)) := by
  simp [sendUnstored, h, refuse]

theorem sendUnstored_fits {env : Bytes} {s : State} (h : env.length ≤ s.cfg.maxLen.val) :
    sendUnstored env s = txWrite (wrapFrame s.cfg (idByte s.pidCtr) env) (allocPid s).1 := by
  simp [sendUnstored, Nat.not_lt.2 h]

/-! ### The tables -/

/-- Replacing an entry of `HIST` changes that entry alone. -/
theorem State.histAt_setHist (s : State) {k : Nat} (h : k < 224) (e : Option Bytes) (j : Nat) :
    (s.setHist k e).histAt j = if j = k then e else s.histAt j := by
  simp only [State.setHist, State.histAt, Vector.getElem?_setIfInBounds]
  by_cases hj : k = j
  · subst hj; simp [h]
  · simp [hj, Ne.symm hj]

/-- Replacing an entry of `PEND` changes that entry alone. -/
theorem State.pendAt_setPend (s : State) {k : Nat} (h : k < 224) (b : Bool) (j : Nat) :
    (s.setPend k b).pendAt j = if j = k then b else s.pendAt j := by
  simp only [State.setPend, State.pendAt, Vector.getElem?_setIfInBounds]
  by_cases hj : k = j
  · subst hj; simp [h]
  · simp [hj, Ne.symm hj]

/-- A key of 224..255 finds nothing (R98). -/
theorem State.histAt_high (s : State) {k : Nat} (h : 224 ≤ k) : s.histAt k = none := by simp [State.histAt, h]

theorem State.pendAt_high (s : State) {k : Nat} (h : 224 ≤ k) : s.pendAt k = false := by simp [State.pendAt, h]

theorem histTake_none {id : Byte} {s : State} (h : s.histAt id.toNat = none) : histTake id s = (s, none) := by
  simp [histTake, h]

theorem histTake_some {id : Byte} {f : Bytes} {s : State} (h : s.histAt id.toNat = some f) :
    histTake id s = (s.setHist id.toNat none, some f) := by simp [histTake, h]

theorem pendTake_set {key : Byte} {s : State} (h : s.pendAt key.toNat = true) :
    pendTake key s = (s.setPend key.toNat false, true) := by simp [pendTake, h]

theorem pendTake_clear {key : Byte} {s : State} (h : s.pendAt key.toNat = false) : pendTake key s = (s, false) := by
  simp [pendTake, h]

theorem resend_unknown {id : Byte} {s : State} (h : s.histAt id.toNat = none) :
    resend id s = (s.emit (.unknownRetransmit id), .ok ()) := by simp [resend, histTake_none h]

theorem resend_taken {id : Byte} {f : Bytes} {s : State} (h : s.histAt id.toNat = some f) (hw : s.writable) :
    resend id s = (((s.setHist id.toNat none).wrote f).emit (.retransmit id), .ok ()) := by
  have hw' : (s.setHist id.toNat none).writable := hw
  simp [resend, histTake_some h, txWrite_taken hw']

theorem resend_failed {id : Byte} {f : Bytes} {s : State} (h : s.histAt id.toNat = some f) (hw : ¬ s.writable) :
    resend id s = ((s.setHist id.toNat none).writeFailed f, .fault (.transportFault f)) := by
  have hw' : ¬ (s.setHist id.toNat none).writable := hw
  simp [resend, histTake_some h, txWrite_failed hw']

theorem completeTask_pending {key status : Byte} {rest : Bytes} {s : State} (h : s.pendAt key.toNat = true) :
    completeTask key status rest s = (s.setPend key.toNat false).emit (.complete key status rest) := by
  simp [completeTask, pendTake_set h]

theorem completeTask_unmatched {key status : Byte} {rest : Bytes} {s : State} (h : s.pendAt key.toNat = false) :
    completeTask key status rest s = s.emit (.unmatched key status) := by
  simp [completeTask, pendTake_clear h]

/-! ### A property every primitive update keeps -/

/-- A property of states that every primitive update of the operations keeps. RESET and a direct HIST.PUT, whose
updates are wholesale, are left to the invariant's own proof. -/
structure Kept (P : State → Prop) : Prop where
  emit : ∀ s e, P s → P (s.emit e)
  ret : ∀ s r, P s → P (s.setRet r)
  flags : ∀ s m, P s → P (s.setFlags m)
  link : ∀ s, P s → P s.dropLink
  tx : ∀ s f, P s → P (s.pushTx f)
  busy : ∀ s b, P s → P (s.setBusy b)
  sched : ∀ s l, P s → P (s.setSched l)
  cmds : ∀ s l, (∀ i ∈ l, i ∈ s.cmds) → P s → P (s.setCmds l)
  pid : ∀ s, P s → P (allocPid s).1
  tid : ∀ s, P s → P (allocTid s).1
  unstore : ∀ s k, P s → P (s.setHist k none)
  pend : ∀ s k b, P s → P (s.setPend k b)
  drop : ∀ s n, n ≤ s.rbSize → P s → P (s.dropHead n)
  push : ∀ s bs, s.cfg.capFits (s.rbSize + bs.length) = true → P s → P (s.pushTail bs)
  store : ∀ (s : State) (pid : IssuedId) flags tid user, 3 + user.length ≤ s.cfg.maxLen.val → P s →
    P (s.setHist pid.val (some (wrapFrame s.cfg (idByte pid) (addEnvelope s.cfg flags tid user))))

variable {P : State → Prop}

theorem Kept.takeFault (k : Kept P) {s : State} (f : FaultInfo) (h : P s) : P (s.takeFault f) :=
  k.emit _ _ (k.flags _ _ h)

theorem Kept.conclude (k : Kept P) {α : Type} {g : α → Result} {p : State × Reply α} {t : State}
    (e : conclude g p = .next t) (h : P p.1) : P t := by
  obtain ⟨r, hr⟩ := conclude_next g p
  rw [hr] at e
  cases e
  exact k.ret _ _ h

theorem Kept.finish (k : Kept P) {s t : State} {r : Result} (e : finish s r = .next t) (h : P s) : P t := by
  cases e
  exact k.ret _ _ h

theorem Kept.txWrite (k : Kept P) {s : State} (f : Bytes) (h : P s) : P (txWrite f s).1 := by
  unfold Machine.txWrite
  split
  · exact k.takeFault _ (k.link _ h)
  · exact k.tx _ _ (k.link _ h)

theorem Kept.sendUnstored (k : Kept P) {s : State} (env : Bytes) (h : P s) : P (sendUnstored env s).1 := by
  unfold Machine.sendUnstored
  split
  · exact k.emit _ _ h
  · exact k.txWrite _ (k.pid _ h)

theorem Kept.pendPut (k : Kept P) {s : State} (tid : IssuedId) (h : P s) : P (pendPut tid s) := by
  unfold Machine.pendPut
  split
  · exact k.pend _ _ _ (k.flags _ _ h)
  · exact k.pend _ _ _ h

theorem Kept.sendAddTask (k : Kept P) {s : State} (flags : BitVec 3) (tid : IssuedId) (user : Bytes)
    (hl : 3 + user.length ≤ s.cfg.maxLen.val) (h : P s) : P (sendAddTask flags tid user s).1 :=
  k.txWrite _ (k.pendPut _ (k.store (allocPid s).1 s.pidCtr flags tid user hl (k.pid _ h)))

theorem Kept.pendTake (k : Kept P) {s : State} (key : Byte) (h : P s) : P (pendTake key s).1 := by
  unfold Machine.pendTake
  split
  · exact k.pend _ _ _ h
  · exact h

theorem Kept.histTake (k : Kept P) {s : State} (id : Byte) (h : P s) : P (histTake id s).1 := by
  unfold Machine.histTake
  split
  · exact h
  · exact k.unstore _ _ h

theorem Kept.resend (k : Kept P) {s : State} (id : Byte) (h : P s) : P (resend id s).1 := by
  cases hf : s.histAt id.toNat with
  | none => rw [resend_unknown hf]; exact k.emit _ _ h
  | some f =>
    by_cases hw : s.writable
    · rw [resend_taken hf hw]; exact k.emit _ _ (k.tx _ _ (k.link _ (k.unstore _ _ h)))
    · rw [resend_failed hf hw]; exact k.takeFault _ (k.link _ (k.unstore _ _ h))

theorem Kept.completeTask (k : Kept P) {s : State} (key status : Byte) (rest : Bytes) (h : P s) :
    P (completeTask key status rest s) := by
  cases hp : s.pendAt key.toNat with
  | true => rw [completeTask_pending hp]; exact k.emit _ _ (k.pend _ _ _ h)
  | false => rw [completeTask_unmatched hp]; exact k.emit _ _ h

theorem Kept.routeStatus (k : Kept P) {s : State} (key status : Byte) (rest : Bytes) (h : P s) :
    P (routeStatus key status rest s) := by
  unfold Machine.routeStatus
  split
  · exact k.completeTask _ _ _ h
  · split <;> exact k.emit _ _ h

theorem Kept.dispatchPayload (k : Kept P) {s : State} (id status : Byte) (tail : Bytes) (h : P s) :
    P (dispatchPayload id status tail s).1 := by
  unfold Machine.dispatchPayload
  split
  · exact k.emit _ _ h
  · rename_i key rest _
    have h1 := k.routeStatus key status rest h
    have h2 := k.sendUnstored (ackEnvelope (Machine.routeStatus key status rest s).cfg key) h1
    simp only [sendAck]
    split
    · split <;> simp_all
    · exact h1

theorem Kept.thenContinue {p : State × Reply Unit} (h : P p.1) : P (thenContinue p).1 := by
  obtain ⟨s, a | f | r⟩ := p <;> exact h

theorem Kept.handleUnwrapped (k : Kept P) {s : State} (u : Unwrapped) (h : P s) : P (handleUnwrapped u s).1 := by
  cases u with
  | ok id payload =>
    cases payload with
    | nil => exact Kept.thenContinue (k.resend id h)
    | cons status tail => exact k.dispatchPayload _ _ _ h
  | badEscape id => exact Kept.thenContinue (k.txWrite _ (k.emit _ _ h))
  | crcMismatch id => exact Kept.thenContinue (k.txWrite _ (k.emit _ _ h))

theorem spanWalk_le (c : Params) : ∀ (n : Nat) (bs : Bytes) (pos k : Nat), spanWalk c n bs pos = some k →
    pos + n ≤ k ∧ k ≤ pos + bs.length := by
  intro n
  induction n with
  | zero => intro bs pos k h; simp [spanWalk] at h; omega
  | succ n ih =>
    intro bs pos k h
    cases bs with
    | nil => simp [spanWalk] at h
    | cons b t =>
      by_cases hb : b = c.esc
      · cases t with
        | nil => simp [spanWalk, hb] at h
        | cons b' t' =>
          simp only [spanWalk, hb, if_true] at h
          have := ih _ _ _ h
          simp only [List.length_cons]
          omega
      · simp only [spanWalk, hb, if_false] at h
        have := ih _ _ _ h
        simp only [List.length_cons]
        omega

/-- A physical span lies within the bytes it was walked over, header included (R147). -/
theorem physSpan_le {c : Params} {buf : Bytes} {len n : Nat} (h : physSpan c buf len = some n) :
    5 + len ≤ n ∧ n ≤ buf.length := by
  have := spanWalk_le c _ _ _ _ h
  simp only [List.length_drop] at this
  omega

theorem Kept.parseCandidate (k : Kept P) {s : State} (h : P s) : P (parseCandidate s).1 := by
  unfold Machine.parseCandidate
  split
  · exact h
  · dsimp only
    split
    · exact k.emit _ _ (k.drop _ _ (by omega) h)
    · split
      · exact h
      · rename_i hn
        have := (physSpan_le hn).2
        rw [State.rb_length] at this
        exact k.handleUnwrapped _ (k.drop _ _ this h)

theorem Kept.parseOne (k : Kept P) {s : State} (h : P s) : P (parseOne s).1 := by
  unfold Machine.parseOne
  split
  · exact h
  · split
    · exact k.emit _ _ (k.drop _ _ (Nat.le_refl _) h)
    · rename_i j hj
      split
      · exact k.parseCandidate h
      · exact k.parseCandidate (k.emit _ _ (k.drop _ _ (Nat.le_of_lt (ringFind_some hj).2.1) h))

theorem Kept.ringAppend (k : Kept P) {s : State} (bs : Bytes) (h : P s) : P (ringAppend bs s).1 := by
  unfold Machine.ringAppend
  split
  · exact k.push _ _ ‹_› h
  · exact k.takeFault _ h

theorem Kept.ringGet (k : Kept P) {s : State} (i : Nat) (h : P s) : P (ringGet i s).1 := by
  unfold Machine.ringGet
  split
  · exact h
  · exact k.takeFault _ h

theorem Kept.ringTake (k : Kept P) {s : State} (n : Nat) (h : P s) : P (ringTake n s).1 := by
  unfold Machine.ringTake
  split
  · exact k.drop _ _ ‹_› h
  · exact k.takeFault _ h

theorem Kept.ringSkip (k : Kept P) {s : State} (n : Nat) (h : P s) : P (ringSkip n s).1 := by
  unfold Machine.ringSkip
  split
  · exact k.drop _ _ ‹_› h
  · exact k.takeFault _ h

/-- Every instruction but RESET and a direct HIST.PUT keeps a property its primitive updates keep. -/
theorem Kept.exec (k : Kept P) {i : Instr} {s t : State} (hr : i ≠ .reset) (hp : ∀ pid f, i ≠ .histPut pid f)
    (e : exec i s = .next t) (h : P s) : P t := by
  cases i with
  | reset => exact absurd rfl hr
  | histPut pid f => exact absurd rfl (hp pid f)
  | frame id payload crc => exact k.conclude e (k.handleUnwrapped _ h)
  | frameEmpty id crc => exact k.conclude e (k.handleUnwrapped _ h)
  | escStart => exact k.finish e h
  | escEsc => exact k.finish e h
  | envAdd flags tid user =>
    refine k.conclude e ?_
    split
    · exact k.emit _ _ h
    · exact k.sendAddTask _ _ _ (by omega) h
  | envAck key => exact k.conclude e (k.sendUnstored _ h)
  | envAbort => exact k.conclude e (k.sendUnstored _ h)
  | rspSync id status rest => exact k.conclude e (k.dispatchPayload _ _ _ h)
  | rspAsync id status tid rest => exact k.conclude e (k.dispatchPayload _ _ _ h)
  | stPending id tail => exact k.conclude e (k.dispatchPayload _ _ _ h)
  | stInProgress id tail => exact k.conclude e (k.dispatchPayload _ _ _ h)
  | stResult id tail => exact k.conclude e (k.dispatchPayload _ _ _ h)
  | stError id tail => exact k.conclude e (k.dispatchPayload _ _ _ h)
  | stStopped id tail => exact k.conclude e (k.dispatchPayload _ _ _ h)
  | stAsyncResult id tail => exact k.conclude e (k.dispatchPayload _ _ _ h)
  | stAsyncError id tail => exact k.conclude e (k.dispatchPayload _ _ _ h)
  | stWaiting id tail => exact k.conclude e (k.dispatchPayload _ _ _ h)
  | stOverflow id tail => exact k.conclude e (k.dispatchPayload _ _ _ h)
  | stAlreadyExists id tail => exact k.conclude e (k.dispatchPayload _ _ _ h)
  | stNotFound id tail => exact k.conclude e (k.dispatchPayload _ _ _ h)
  | stIllegalValue id tail => exact k.conclude e (k.dispatchPayload _ _ _ h)
  | send flags user =>
    refine k.conclude e ?_
    split
    · exact k.emit _ _ h
    · exact k.sendAddTask (s := (allocTid s).1) _ _ _ (by simp; omega) (k.tid _ h)
  | abort => exact k.conclude e (k.sendUnstored _ h)
  | rxChunk bytes =>
    have h1 := k.ringAppend bytes h
    simp only [Machine.exec, execRxChunk] at e
    split at e
    · cases e
    · split at e <;> rename_i heq <;> rw [heq] at h1
      · exact k.finish e (k.busy _ _ h1)
      · exact k.finish e h1
      · exact k.finish e h1
  | rbAppend bytes => exact k.conclude e (k.ringAppend _ h)
  | rbGet i => exact k.conclude e (k.ringGet _ h)
  | rbTake n => exact k.conclude e (k.ringTake _ h)
  | rbSkip n => exact k.conclude e (k.ringSkip _ h)
  | rbFind b start => exact k.finish e h
  | rbSize => exact k.finish e h
  | rbIsEmpty => exact k.finish e h
  | crc8 id data => exact k.finish e h
  | escByte b => exact k.finish e h
  | escape str => exact k.finish e h
  | unescape p => exact k.finish e h
  | physSpan buf len => exact k.finish e h
  | wrapId id payload =>
    refine k.conclude e ?_
    split
    · exact k.emit _ _ h
    · exact h
  | wrapNext payload =>
    refine k.conclude e ?_
    split
    · exact k.emit _ _ h
    · exact k.pid _ h
  | unwrap f => exact k.finish e h
  | allocPid => exact k.finish e (k.pid _ h)
  | allocTid => exact k.finish e (k.tid _ h)
  | histTake id => exact k.finish e (k.histTake _ h)
  | pendPut tid => exact k.finish e (k.pendPut _ h)
  | pendTake key => exact k.finish e (k.pendTake _ h)
  | txNeg id => exact k.conclude e (k.txWrite _ h)
  | txAck key => exact k.conclude e (k.sendUnstored _ h)
  | retransmit id => exact k.conclude e (k.resend _ h)
  | parseStep => exact k.conclude e (k.parseOne h)
  | dispatch id status tail => exact k.conclude e (k.dispatchPayload _ _ _ h)
  | complete key status rest => exact k.finish e (k.completeTask _ _ _ h)

end Sys2Proof.Machine
end

