-- ==== Sys2Proof/Laws/Codec.lean ====
section
/-! SUPPORT. The codec's pure functions: what K1 to K6 say as propositions, the escape codec as equations, and that
the walk of PHYS_SPAN and UNESCAPE agree on how long a frame's body is. -/

namespace Sys2Proof

/-! ### The binding -/

theorem distinct_iff (l : List Byte) : distinct l = true ↔ l.Nodup := by
  induction l with
  | nil => simp [distinct]
  | cons b t ih => simp [distinct, ih]

/-- The binding passes K1 to K6 exactly when each of the six holds (R9). -/
theorem Params.valid_iff (c : Params) : c.Valid ↔
    c.markers.Nodup ∧ (c.markerClear c.start = true ∧ c.markerClear c.esc = true) ∧ idMod ≤ c.sentinelId.toNat ∧
      c.statuses.Nodup ∧ c.opcodes.Nodup ∧ c.capFits c.rbCapInit = true := by
  unfold Params.Valid Params.violation
  simp only [← distinct_iff]
  split
  · simp_all
  split
  · rename_i h
    simp only [Bool.not_eq_true', Bool.and_eq_false_iff] at h
    rcases h with h | h <;> simp [h]
  split
  · simp_all
  split
  · simp_all
  split
  · simp_all
  split <;> simp_all

/-- The four markers and tokens of a valid binding differ (K1). -/
theorem Params.Valid.markers_ne {c : Params} (h : c.Valid) :
    c.start ≠ c.esc ∧ c.start ≠ c.tstart ∧ c.start ≠ c.tesc ∧ c.esc ≠ c.tstart ∧ c.esc ≠ c.tesc ∧ c.tstart ≠ c.tesc := by
  have := ((c.valid_iff).1 h).1
  simp [Params.markers] at this
  tauto

/-! ### Escaping -/

theorem escape_append (c : Params) (s t : Bytes) : escape c (s ++ t) = escape c s ++ escape c t := by
  induction s with
  | nil => rfl
  | cons b s ih => simp [escape, ih]

theorem escape_singleton (c : Params) (b : Byte) : escape c [b] = escByte c b := by simp [escape]

/-- Escaped bytes then a string: UNESCAPE takes the byte back (R145). -/
theorem unescape_escByte {c : Params} (h : c.Valid) (b : Byte) (t : Bytes) :
    unescape c (escByte c b ++ t) = (unescape c t).map (b :: ·) := by
  obtain ⟨h1, h2, h3, h4, h5, h6⟩ := h.markers_ne
  unfold escByte
  by_cases hs : b = c.start
  · subst hs; simp [unescape, tokenByte]
  · by_cases he : b = c.esc
    · subst he; simp [unescape, tokenByte, hs, h6.symm]
    · cases t with
      | nil => simp [unescape, hs, he]
      | cons k t => simp [unescape, hs, he]

/-- A frame's body as WRAP_ID writes it is a payload and a CRC byte, escaped (R80). -/
theorem frameBytes_body (c : Params) (id : Byte) (payload : Bytes) (crc : Byte) :
    frameBytes c id payload crc = [c.start, lenLow payload.length, lenHigh payload.length, id] ++
      escape c (payload ++ [crc]) := by
  simp [frameBytes, escape_append, escape_singleton]

/-! ### The span -/

theorem spanWalk_escByte (c : Params) (b : Byte) (n : Nat) (t : Bytes) (pos : Nat) :
    spanWalk c (n + 1) (escByte c b ++ t) pos = spanWalk c n t (pos + (escByte c b).length) := by
  unfold escByte
  by_cases hs : b = c.start
  · simp [hs, spanWalk]
  · by_cases he : b = c.esc
    · subst he; simp [hs, spanWalk]
    · simp [hs, he, spanWalk]

/-- The walk over an escaped string steps over exactly its bytes (R147). -/
theorem spanWalk_escape (c : Params) (s : Bytes) : ∀ (t : Bytes) (pos : Nat),
    spanWalk c s.length (escape c s ++ t) pos = some (pos + (escape c s).length) := by
  induction s with
  | nil => simp [spanWalk, escape]
  | cons b s ih => intro t pos; simp [escape, spanWalk_escByte, ih, Nat.add_assoc]

/-- What UNESCAPE makes of the bytes the walk stepped over has as many bytes as the walk counted (R145, R147). -/
theorem unescape_spanWalk (c : Params) : ∀ (n : Nat) (bs : Bytes) (pos k : Nat) (body : Bytes),
    spanWalk c n bs pos = some k → unescape c (bs.take (k - pos)) = some body → body.length = n := by
  intro n
  induction n with
  | zero => intro bs pos k body h hu; simp [spanWalk] at h; subst h; simp [unescape] at hu; simp [← hu]
  | succ n ih =>
    intro bs pos k body h hu
    have hb := Machine.spanWalk_le c _ _ _ _ h
    cases bs with
    | nil => simp [spanWalk] at h
    | cons b t =>
      obtain ⟨d, hd⟩ : ∃ d, k - pos = d + 1 := ⟨k - pos - 1, by omega⟩
      rw [hd, List.take_succ_cons] at hu
      by_cases he : b = c.esc
      · cases t with
        | nil => simp [spanWalk, he] at h
        | cons b' t =>
          simp only [spanWalk, he, if_true] at h
          have hb' := Machine.spanWalk_le c _ _ _ _ h
          obtain ⟨d', hd'⟩ : ∃ d', d = d' + 1 := ⟨d - 1, by omega⟩
          subst hd'
          rw [List.take_succ_cons, unescape, if_pos he] at hu
          split at hu
          · obtain ⟨r, hr, rfl⟩ := Option.map_eq_some_iff.1 hu
            have := ih _ _ _ r h (by rwa [show k - (pos + 2) = d' by omega])
            simp [this]
          · cases hu
      · simp only [spanWalk, he, if_false] at h
        have hx : unescape c (b :: t.take d) = (unescape c (t.take d)).map (b :: ·) := by
          cases t.take d with
          | nil => simp [unescape, he]
          | cons k t => simp [unescape, he]
        rw [hx] at hu
        obtain ⟨r, hr, rfl⟩ := Option.map_eq_some_iff.1 hu
        have := ih _ _ _ r h (by rwa [show k - (pos + 1) = d by omega])
        simp [this]

/-! ### The length fields -/

theorem lenLow_toNat (n : Nat) : (lenLow n).toNat = n % 128 := by
  have : n &&& 127 = n % 128 := Nat.and_two_pow_sub_one_eq_mod n 7
  simp only [lenLow, BitVec.toNat_ofNat, this]
  omega

theorem lenHigh_toNat {n : Nat} (h : n < 32768) : (lenHigh n).toNat = n / 128 := by
  have : n >>> 7 &&& 255 = (n >>> 7) % 256 := Nat.and_two_pow_sub_one_eq_mod _ 8
  simp only [lenHigh, BitVec.toNat_ofNat, this]
  rw [Nat.shiftRight_eq_div_pow]
  omega

theorem and_7F_toNat (b : Byte) : (b &&& 0x7F#8).toNat = b.toNat % 128 := by
  rw [BitVec.toNat_and]
  exact Nat.and_two_pow_sub_one_eq_mod _ 7

theorem declaredLen_eq (l0 l1 : Byte) : declaredLen l0 l1 = l0.toNat % 128 + 128 * l1.toNat := by
  rw [declaredLen, and_7F_toNat]

theorem declaredLen_split {n : Nat} (h : n < 32768) : declaredLen (lenLow n) (lenHigh n) = n := by
  rw [declaredLen_eq, lenLow_toNat, lenHigh_toNat h]
  omega

/-- Bit 7 of a byte is set from 128 on. -/
theorem getLsbD_seven (b : Byte) : b.getLsbD 7 = decide (128 ≤ b.toNat) := by
  have := b.isLt
  rw [← BitVec.testBit_toNat, Nat.testBit_eq_decide_div_mod_eq]
  congr 1
  apply propext
  omega

/-- The lengths phase 3 accepts (R184). -/
theorem acceptedLen_eq (c : Params) (l0 l1 : Byte) : acceptedLen c l0 l1 =
    if 128 ≤ l0.toNat ∨ c.maxLen.val < l0.toNat % 128 + 128 * l1.toNat then none
    else some (l0.toNat % 128 + 128 * l1.toNat) := by
  unfold acceptedLen
  rw [getLsbD_seven, declaredLen_eq]
  by_cases h1 : 128 ≤ l0.toNat
  · simp [h1]
  · simp [h1]

/-- A frame's length fields are accepted with its payload's length. -/
theorem acceptedLen_split {c : Params} {n : Nat} (h : n ≤ c.maxLen.val) :
    acceptedLen c (lenLow n) (lenHigh n) = some n := by
  have hm := c.maxLen.isLt
  rw [acceptedLen_eq, lenLow_toNat, lenHigh_toNat (by omega)]
  rw [if_neg (by omega)]
  congr 1
  omega

end Sys2Proof
end

