-- ==== Sys2Proof/Laws/PerInstr.lean ====
section
/-! SUPPORT. Per instruction: a wire format has a non-empty encoding under every binding, an operation has none
(30_encoding.md R100). -/

namespace Sys2Proof.Laws.EncodingPresence

/-- The rows of opcode_table.json whose encoding is "none" (R100): the operations of 00_scope.md R11. -/
def isOperation : Instr → Bool
  | .frame _ _ _ => false
  | .frameEmpty _ _ => false
  | .escStart => false
  | .escEsc => false
  | .envAdd _ _ _ => false
  | .envAck _ => false
  | .envAbort => false
  | .rspSync _ _ _ => false
  | .rspAsync _ _ _ _ => false
  | .stPending _ _ => false
  | .stInProgress _ _ => false
  | .stResult _ _ => false
  | .stError _ _ => false
  | .stStopped _ _ => false
  | .stAsyncResult _ _ => false
  | .stAsyncError _ _ => false
  | .stWaiting _ _ => false
  | .stOverflow _ _ => false
  | .stAlreadyExists _ _ => false
  | .stNotFound _ _ => false
  | .stIllegalValue _ _ => false
  | .send _ _ => true
  | .abort => true
  | .rxChunk _ => true
  | .reset => true
  | .rbAppend _ => true
  | .rbGet _ => true
  | .rbTake _ => true
  | .rbSkip _ => true
  | .rbFind _ _ => true
  | .rbSize => true
  | .rbIsEmpty => true
  | .crc8 _ _ => true
  | .escByte _ => true
  | .escape _ => true
  | .unescape _ => true
  | .physSpan _ _ => true
  | .wrapId _ _ => true
  | .wrapNext _ => true
  | .unwrap _ => true
  | .allocPid => true
  | .allocTid => true
  | .histPut _ _ => true
  | .histTake _ => true
  | .pendPut _ => true
  | .pendTake _ => true
  | .txNeg _ => true
  | .txAck _ => true
  | .retransmit _ => true
  | .parseStep => true
  | .dispatch _ _ _ => true
  | .complete _ _ _ => true

/-- A wire format has bytes in some context, an operation has none, under every binding. -/
def Statement (i : Instr) : Prop :=
  ∀ c : Params, if isOperation i then encode c i = none else ∃ ctx bs, encode c i = some (ctx, bs) ∧ bs ≠ []

theorem frame (id : Byte) (payload : Bytes) (crc : Byte) : Statement (.frame id payload crc) :=
  fun _ => ⟨_, _, rfl, List.cons_ne_nil _ _⟩
theorem frameEmpty (id crc : Byte) : Statement (.frameEmpty id crc) :=
  fun _ => ⟨_, _, rfl, List.cons_ne_nil _ _⟩
theorem escStart : Statement .escStart :=
  fun _ => ⟨_, _, rfl, List.cons_ne_nil _ _⟩
theorem escEsc : Statement (.escEsc) :=
  fun _ => ⟨_, _, rfl, List.cons_ne_nil _ _⟩
theorem envAdd (flags : BitVec 3) (tid : IssuedId) (user : Bytes) : Statement (.envAdd flags tid user) :=
  fun _ => ⟨_, _, rfl, List.cons_ne_nil _ _⟩
theorem envAck (key : Byte) : Statement (.envAck key) :=
  fun _ => ⟨_, _, rfl, List.cons_ne_nil _ _⟩
theorem envAbort : Statement (.envAbort) :=
  fun _ => ⟨_, _, rfl, List.cons_ne_nil _ _⟩
theorem rspSync (id status : Byte) (rest : Bytes) : Statement (.rspSync id status rest) :=
  fun _ => ⟨_, _, rfl, List.cons_ne_nil _ _⟩
theorem rspAsync (id status tid : Byte) (rest : Bytes) : Statement (.rspAsync id status tid rest) :=
  fun _ => ⟨_, _, rfl, List.cons_ne_nil _ _⟩
theorem stPending (id : Byte) (tail : Bytes) : Statement (.stPending id tail) :=
  fun _ => ⟨_, _, rfl, List.cons_ne_nil _ _⟩
theorem stInProgress (id : Byte) (tail : Bytes) : Statement (.stInProgress id tail) :=
  fun _ => ⟨_, _, rfl, List.cons_ne_nil _ _⟩
theorem stResult (id : Byte) (tail : Bytes) : Statement (.stResult id tail) :=
  fun _ => ⟨_, _, rfl, List.cons_ne_nil _ _⟩
theorem stError (id : Byte) (tail : Bytes) : Statement (.stError id tail) :=
  fun _ => ⟨_, _, rfl, List.cons_ne_nil _ _⟩
theorem stStopped (id : Byte) (tail : Bytes) : Statement (.stStopped id tail) :=
  fun _ => ⟨_, _, rfl, List.cons_ne_nil _ _⟩
theorem stAsyncResult (id : Byte) (tail : Bytes) : Statement (.stAsyncResult id tail) :=
  fun _ => ⟨_, _, rfl, List.cons_ne_nil _ _⟩
theorem stAsyncError (id : Byte) (tail : Bytes) : Statement (.stAsyncError id tail) :=
  fun _ => ⟨_, _, rfl, List.cons_ne_nil _ _⟩
theorem stWaiting (id : Byte) (tail : Bytes) : Statement (.stWaiting id tail) :=
  fun _ => ⟨_, _, rfl, List.cons_ne_nil _ _⟩
theorem stOverflow (id : Byte) (tail : Bytes) : Statement (.stOverflow id tail) :=
  fun _ => ⟨_, _, rfl, List.cons_ne_nil _ _⟩
theorem stAlreadyExists (id : Byte) (tail : Bytes) : Statement (.stAlreadyExists id tail) :=
  fun _ => ⟨_, _, rfl, List.cons_ne_nil _ _⟩
theorem stNotFound (id : Byte) (tail : Bytes) : Statement (.stNotFound id tail) :=
  fun _ => ⟨_, _, rfl, List.cons_ne_nil _ _⟩
theorem stIllegalValue (id : Byte) (tail : Bytes) : Statement (.stIllegalValue id tail) :=
  fun _ => ⟨_, _, rfl, List.cons_ne_nil _ _⟩
theorem send (flags : Byte) (user : Bytes) : Statement (.send flags user) := fun _ => rfl
theorem abort : Statement (.abort) := fun _ => rfl
theorem rxChunk (bytes : Bytes) : Statement (.rxChunk bytes) := fun _ => rfl
theorem reset : Statement (.reset) := fun _ => rfl
theorem rbAppend (bytes : Bytes) : Statement (.rbAppend bytes) := fun _ => rfl
theorem rbGet (i : Nat) : Statement (.rbGet i) := fun _ => rfl
theorem rbTake (n : Nat) : Statement (.rbTake n) := fun _ => rfl
theorem rbSkip (n : Nat) : Statement (.rbSkip n) := fun _ => rfl
theorem rbFind (b : Byte) (start : Nat) : Statement (.rbFind b start) := fun _ => rfl
theorem rbSize : Statement (.rbSize) := fun _ => rfl
theorem rbIsEmpty : Statement (.rbIsEmpty) := fun _ => rfl
theorem crc8 (id : Byte) (data : Bytes) : Statement (.crc8 id data) := fun _ => rfl
theorem escByte (b : Byte) : Statement (.escByte b) := fun _ => rfl
theorem escape (str : Bytes) : Statement (.escape str) := fun _ => rfl
theorem unescape (p : Bytes) : Statement (.unescape p) := fun _ => rfl
theorem physSpan (buf : Bytes) (len : Nat) : Statement (.physSpan buf len) := fun _ => rfl
theorem wrapId (id : Byte) (payload : Bytes) : Statement (.wrapId id payload) := fun _ => rfl
theorem wrapNext (payload : Bytes) : Statement (.wrapNext payload) := fun _ => rfl
theorem unwrap (f : Bytes) : Statement (.unwrap f) := fun _ => rfl
theorem allocPid : Statement (.allocPid) := fun _ => rfl
theorem allocTid : Statement (.allocTid) := fun _ => rfl
theorem histPut (pid : IssuedId) (f : Bytes) : Statement (.histPut pid f) := fun _ => rfl
theorem histTake (id : Byte) : Statement (.histTake id) := fun _ => rfl
theorem pendPut (tid : IssuedId) : Statement (.pendPut tid) := fun _ => rfl
theorem pendTake (key : Byte) : Statement (.pendTake key) := fun _ => rfl
theorem txNeg (id : Byte) : Statement (.txNeg id) := fun _ => rfl
theorem txAck (key : Byte) : Statement (.txAck key) := fun _ => rfl
theorem retransmit (id : Byte) : Statement (.retransmit id) := fun _ => rfl
theorem parseStep : Statement (.parseStep) := fun _ => rfl
theorem dispatch (id status : Byte) (tail : Bytes) : Statement (.dispatch id status tail) := fun _ => rfl
theorem complete (key status : Byte) (rest : Bytes) : Statement (.complete key status rest) := fun _ => rfl

end Sys2Proof.Laws.EncodingPresence
end

