-- ==== Sys2Proof/Laws/Step.lean ====
section
/-! SUPPORT. What one step can do, said once, and that a property every primitive update keeps is kept by a step. -/

namespace Sys2Proof.Machine

/-- Every instruction gives a next state, but an RX_CHUNK invoked while one is in progress (U6). -/
theorem exec_next_or_overlap (i : Instr) (s : State) :
    (∃ t, exec i s = .next t) ∨
      (exec i s = .fault .overlappingRxChunk ∧ s.rxBusy = true ∧ ∃ bytes, i = .rxChunk bytes) := by
  have concl : ∀ {α : Type} (g : α → Result) (p : State × Reply α), ∃ t, conclude g p = .next t := by
    intro α g p
    obtain ⟨r, hr⟩ := conclude_next g p
    exact ⟨_, hr⟩
  cases i with
  | rxChunk bytes =>
    simp only [exec, execRxChunk]
    split
    · exact .inr ⟨rfl, ‹_›, bytes, rfl⟩
    · left
      split <;> exact ⟨_, rfl⟩
  | escStart | escEsc | reset | rbFind | rbSize | rbIsEmpty | crc8 | escByte | escape | unescape | physSpan | unwrap
  | allocPid | allocTid | histPut | histTake | pendPut | pendTake | complete => exact .inl ⟨_, rfl⟩
  | _ => exact .inl (concl _ _)

theorem step_invalid {s : State} {k : Constraint} (h : s.cfg.violation = some k) : step s = refuseInstance k s := by
  simp [step, h]

/-- The refusal of an instantiation is logged and returned. -/
theorem refuseInstance_untold {s : State} {k : Constraint} (h : s.ret ≠ .refused (.badParameters k)) :
    refuseInstance k s =
      .next ((s.emit (.refused .instantiation (.badParameters k))).setRet (.refused (.badParameters k))) := by
  simp [refuseInstance, h, refuse]

/-- An instance whose refusal has been returned takes no step (U17). -/
theorem refuseInstance_told {s : State} {k : Constraint} (h : s.ret = .refused (.badParameters k)) :
    refuseInstance k s = .refused (.badParameters k) := by simp [refuseInstance, h]

theorem step_valid {s : State} (h : s.cfg.Valid) : step s = move s := by
  unfold Params.Valid at h
  simp [step, h]

/-! ### An agent's oldest operation -/

/-- An agent's oldest operation is the first of its own, and taking it leaves the others in their order. -/
theorem oldestOf_some {a : Agent} {q t : List Instr} {i : Instr} (h : oldestOf a q = some (i, t)) :
    agentOf i = a ∧ ∃ pre post, q = pre ++ i :: post ∧ t = pre ++ post ∧ ∀ j ∈ pre, agentOf j ≠ a := by
  induction q generalizing t with
  | nil => cases h
  | cons x q ih =>
    rw [oldestOf] at h
    split at h
    · cases h
      exact ⟨‹_›, [], q, rfl, rfl, by simp⟩
    · rename_i hx
      obtain ⟨⟨i', t'⟩, ht, he⟩ := Option.map_eq_some_iff.1 h
      cases he
      obtain ⟨hi, pre, post, rfl, rfl, hp⟩ := ih ht
      exact ⟨hi, x :: pre, post, rfl, rfl, by simpa using ⟨hx, hp⟩⟩

theorem oldestOf_append {a : Agent} {pre post : List Instr} {i : Instr} (hp : ∀ j ∈ pre, agentOf j ≠ a)
    (hi : agentOf i = a) : oldestOf a (pre ++ i :: post) = some (i, pre ++ post) := by
  induction pre with
  | nil => simp [oldestOf, hi]
  | cons x pre ih =>
    simp only [List.forall_mem_cons] at hp
    simp [oldestOf, hp.1, ih hp.2]

theorem oldestOf_none {a : Agent} {q : List Instr} (h : ∀ j ∈ q, agentOf j ≠ a) : oldestOf a q = none := by
  induction q with
  | nil => rfl
  | cons x q ih =>
    simp only [List.forall_mem_cons] at h
    simp [oldestOf, h.1, ih h.2]

/-- The operations left are among those there were. -/
theorem oldestOf_subset {a : Agent} {q t : List Instr} {i : Instr} (h : oldestOf a q = some (i, t)) :
    ∀ j ∈ t, j ∈ q := by
  obtain ⟨-, pre, post, rfl, rfl, -⟩ := oldestOf_some h
  simp only [List.mem_append, List.mem_cons]
  tauto

/-! ### The moves -/

/-- What running the oldest operation can do: nothing, or that operation. -/
theorem runOldest_next {a : Agent} {s t : State} (h : runOldest a s = .next t) :
    t = s ∨ ∃ i rest, oldestOf a s.cmds = some (i, rest) ∧ exec i (s.setCmds rest) = .next t := by
  unfold runOldest at h
  split at h
  · cases h
    exact .inl rfl
  · exact .inr ⟨_, _, ‹_›, h⟩

theorem runOldest_none {a : Agent} {s : State} (h : ∀ j ∈ s.cmds, agentOf j ≠ a) : runOldest a s = .next s := by
  simp [runOldest, oldestOf_none h]

theorem receiverMove_busy {s : State} (h : s.rxBusy = true) :
    ∃ u, exec .parseStep s = .next u ∧ receiverMove s = .next (afterTurn u) := by
  obtain ⟨r, hr⟩ := conclude_next .turn (parseOne s)
  have hp : exec .parseStep s = .next ((parseOne s).1.setRet r) := hr
  exact ⟨_, hp, by simp [receiverMove, h, hp]⟩

theorem receiverMove_free {s : State} (h : s.rxBusy = false) : receiverMove s = runOldest .receiver s := by
  simp [receiverMove, h]

/-- The host waits only for an RX_CHUNK in progress. -/
theorem hostWaits_busy {s : State} (h : hostWaits s = true) : s.rxBusy = true := by
  unfold hostWaits at h
  split at h
  · cases h
  · exact (Bool.and_eq_true_iff.1 h).1

theorem hostMove_waits {s : State} (h : hostWaits s = true) : hostMove s = receiverMove s := by simp [hostMove, h]

theorem hostMove_runs {s : State} (h : hostWaits s = false) : hostMove s = runOldest .host s := by
  simp [hostMove, h]

/-- What one step can do, when it gives a next state: report the refused instantiation, nothing but advance the
schedule, run the operation `operationRun` names, or run a PARSE_STEP of the RX_CHUNK in progress. -/
theorem step_cases {s t : State} (h : step s = .next t) :
    (∃ k, s.cfg.violation = some k ∧
      t = (s.emit (.refused .instantiation (.badParameters k))).setRet (.refused (.badParameters k))) ∨
    (s.cfg.Valid ∧ ∃ l,
      (t = s.setSched l ∨
       (∃ i rest, s.operationRun = some i ∧ oldestOf (agentOf i) s.cmds = some (i, rest) ∧
         exec i ((s.setSched l).setCmds rest) = .next t) ∨
       (s.rxBusy = true ∧ s.operationRun = none ∧
         ∃ u, exec .parseStep (s.setSched l) = .next u ∧ t = afterTurn u))) := by
  unfold step at h
  split at h
  · rename_i k hk
    refine .inl ⟨k, hk, ?_⟩
    by_cases hr : s.ret = .refused (.badParameters k)
    · rw [refuseInstance_told hr] at h
      cases h
    · rw [refuseInstance_untold hr] at h
      cases h
      rfl
  · rename_i hv
    refine .inr ⟨hv, ?_⟩
    have runs : ∀ {a : Agent} {l : List Agent}, runOldest a (s.setSched l) = .next t →
        (∀ i rest, oldestOf a s.cmds = some (i, rest) → s.operationRun = some i) →
        t = s.setSched l ∨ ∃ i rest, s.operationRun = some i ∧ oldestOf (agentOf i) s.cmds = some (i, rest) ∧
          exec i ((s.setSched l).setCmds rest) = .next t := by
      intro a l hr ho
      rcases runOldest_next hr with rfl | ⟨i, rest, hc, hx⟩
      · exact .inl rfl
      · exact .inr ⟨i, rest, ho i rest hc, by rw [(oldestOf_some hc).1]; exact hc, hx⟩
    have turns : ∀ {l : List Agent}, s.rxBusy = true → receiverMove (s.setSched l) = .next t →
        ∃ u, exec .parseStep (s.setSched l) = .next u ∧ t = afterTurn u := by
      intro l hb hm
      obtain ⟨u, hu, he⟩ := receiverMove_busy (s := s.setSched l) hb
      rw [he] at hm
      cases hm
      exact ⟨u, hu, rfl⟩
    unfold move at h
    split at h
    · rename_i l ha
      refine ⟨l, ?_⟩
      cases hw : hostWaits s with
      | true =>
        rw [hostMove_waits (s := s.setSched l) hw] at h
        have hb := hostWaits_busy hw
        exact .inr (.inr ⟨hb, by simp [State.operationRun, hv, ha, hw], turns hb h⟩)
      | false =>
        rw [hostMove_runs (s := s.setSched l) hw] at h
        rcases runs h (fun i rest hc => by simp [State.operationRun, hv, ha, hw, hc]) with h | h
        exacts [.inl h, .inr (.inl h)]
    · rename_i l ha
      refine ⟨l, ?_⟩
      cases hb : s.rxBusy with
      | true => exact .inr (.inr ⟨rfl, by simp [State.operationRun, hv, ha, hb], turns hb h⟩)
      | false =>
        rw [receiverMove_free (s := s.setSched l) hb] at h
        rcases runs h (fun i rest hc => by simp [State.operationRun, hv, ha, hb, hc]) with h | h
        exacts [.inl h, .inr (.inl h)]

/-- A step that runs neither RESET nor a direct HIST.PUT keeps a property every primitive update keeps. -/
theorem Kept.step {P : State → Prop} (k : Kept P) {s t : State} (hr : s.operationRun ≠ some .reset)
    (hp : ∀ pid f, s.operationRun ≠ some (.histPut pid f)) (e : step s = .next t) (h : P s) : P t := by
  obtain ⟨c, -, rfl⟩ | ⟨-, l, rfl | ⟨i, rest, hi, hc, hx⟩ | ⟨-, -, u, hx, rfl⟩⟩ := step_cases e
  · exact k.ret _ _ (k.emit _ _ h)
  · exact k.sched _ _ h
  · refine k.exec (fun he => hr (he ▸ hi)) (fun pid f he => hp pid f (he ▸ hi)) hx ?_
    exact k.cmds _ rest (oldestOf_subset hc) (k.sched _ _ h)
  · have hu := k.exec (by simp) (by simp) hx (k.sched _ l h)
    unfold afterTurn
    split
    · exact hu
    · exact k.busy _ _ hu

end Sys2Proof.Machine
end

