-- ==== Sys2Proof/Tests/Slice0.lean ====
section
/-! SUPPORT. Tests: what the well-formedness check refuses, the decoding of words written out from 30_encoding.md, one
step of each instruction against the rules' examples and 95_test_vectors.md, and for each statement with hypotheses a
concrete case that meets them. Bytes are under `P_ref` (00_scope.md R10). -/

open Sys2Proof Sys2Proof.Machine Sys2Proof.Claims

namespace Sys2Proof.Tests

-- one theorem at a time: each kernel evaluation otherwise holds a thread of its own
set_option Elab.async false

/-- The block after reset under `P_ref`. -/
def blk : State := State.fresh Params.ref

/-- The block after reset under `P_ref` but for `MAX_LEN`. -/
def short (m : Fin 32768) : State := State.fresh { Params.ref with maxLen := m }

/-- The block holding received bytes. -/
def holding (bs : Bytes) : State := blk.pushTail bs

/-- `p` holds of the next state, and there is one. -/
def after (o : Host.Outcome State Fault Refusal) (p : State → Bool) : Bool :=
  match o with
  | .next s => p s
  | _ => false

/-- The operation gives a next state in which `p` holds. -/
def gives (i : Instr) (s : State) (p : State → Bool) : Bool := after (exec i s) p

theorem next_of_after {o : Host.Outcome State Fault Refusal} {p : State → Bool} (h : after o p = true) :
    ∃ t, o = .next t ∧ p t = true := by
  cases o with
  | next t => exact ⟨t, rfl, h⟩
  | _ => cases h

/-- After `SEND f=1 [5A]` from reset: `HIST[0]` set, `PEND[0]` set, both counters 1 (V-TX-1). -/
def sent : State :=
  { blk with
    pidCtr := 1, tidCtr := 1, tx := [[0xFE, 0x04, 0x00, 0x00, 0xC1, 0x01, 0x00, 0x5A, 0xFA]]
    hist := blk.hist.set 0 (some [0xFE, 0x04, 0x00, 0x00, 0xC1, 0x01, 0x00, 0x5A, 0xFA])
    pend := blk.pend.set 0 true }

/-! ### Well-formedness: an ill-formed term for each check (R9 K5, R80, R89, R94, R147, R149, R192) -/

theorem test_wf_frame_not_empty : (Instr.frame 1 [] 0x9D).wellFormed Params.ref = false := by decide
theorem test_wf_frame_not_long : (Instr.frame 1 [1, 2, 3] 0).wellFormed (short 2).cfg = false := by decide
theorem test_wf_frame_ok : (Instr.frame 1 [1, 2] 0).wellFormed (short 2).cfg = true := by decide
theorem test_wf_add_not_long : (Instr.envAdd 1 0 [0x5A]).wellFormed (short 3).cfg = false := by decide
theorem test_wf_ack_not_long : (Instr.envAck 0).wellFormed (short 1).cfg = false := by decide
theorem test_wf_abort_not_long : Instr.envAbort.wellFormed (short 0).cfg = false := by decide
theorem test_wf_sync_not_async : (Instr.rspSync 0 0xA6 [0]).wellFormed Params.ref = false := by decide
theorem test_wf_sync_not_long : (Instr.rspSync 0 0xA3 [0]).wellFormed (short 1).cfg = false := by decide
theorem test_wf_async_not_sync : (Instr.rspAsync 0 0xA3 0 []).wellFormed Params.ref = false := by decide
theorem test_wf_async_not_long : (Instr.rspAsync 0 0xA6 0 []).wellFormed (short 1).cfg = false := by decide
theorem test_wf_status_not_long :
    ([Instr.stPending 0 [0], .stInProgress 0 [0], .stResult 0 [0], .stError 0 [0], .stStopped 0 [0],
      .stAsyncResult 0 [0], .stAsyncError 0 [0], .stWaiting 0 [0], .stOverflow 0 [0], .stAlreadyExists 0 [0],
      .stNotFound 0 [0], .stIllegalValue 0 [0]].all fun i => i.wellFormed (short 1).cfg = false) = true := by decide
theorem test_wf_span_at_start : (Instr.physSpan [0x11, 0, 0, 1, 0x9D] 0).wellFormed Params.ref = false := by decide
theorem test_wf_span_length : (Instr.physSpan [0xFE] 32768).wellFormed Params.ref = false := by decide
theorem test_wf_unwrap_at_start : (Instr.unwrap [0x11, 0, 0, 1, 0x9D]).wellFormed Params.ref = false := by decide
theorem test_wf_unwrap_not_short : (Instr.unwrap [0xFE, 0, 0, 1]).wellFormed Params.ref = false := by decide
theorem test_wf_unwrap_length_bit : (Instr.unwrap [0xFE, 0x80, 0, 1, 0x9D]).wellFormed Params.ref = false := by decide
theorem test_wf_complete_completing : (Instr.complete 0 0xA1 []).wellFormed Params.ref = false := by decide

/-! ### Decoding: words written out from the encodings (30_encoding.md R80 to R95) -/

-- START, LEN_LOW7 = 2, LEN_HIGH = 0, PACKET_ID = 5, then FE and FD escaped, then the CRC of R148's example
theorem test_decode_frame :
    decode Params.ref .stream [0xFE, 0x02, 0x00, 0x05, 0xFD, 0xEE, 0xFD, 0xED, 0x9F] =
      .ok (.frame 5 [0xFE, 0xFD] 0x9F) [] := by decide
-- LEN = 128 is LEN_LOW7 = 0, LEN_HIGH = 1 (R148, R51)
theorem test_decode_frame_length_split :
    decode Params.ref .stream ([0xFE, 0x00, 0x01, 0x02] ++ List.replicate 128 0x00 ++ [0x58]) =
      .ok (.frame 2 (List.replicate 128 0x00) 0x58) [] := by decide +kernel
theorem test_decode_frameEmpty :
    decode Params.ref .stream [0xFE, 0x00, 0x00, 0x37, 0xFD, 0xEE, 0x11] = .ok (.frameEmpty 0x37 0xFE) [0x11] := by
  decide
theorem test_decode_escStart : decode Params.ref .escaped [0xFD, 0xEE, 0x01] = .ok .escStart [0x01] := by decide
theorem test_decode_escEsc : decode Params.ref .escaped [0xFD, 0xED] = .ok .escEsc [] := by decide
-- ADD_OPCODE, FLAGS = ignore-error and async (0b110), TASK_ID = 223, user payload
theorem test_decode_envAdd :
    decode Params.ref .envelope [0xC1, 0x06, 0xDF, 0x10, 0xFE] = .ok (.envAdd 0b110 223 [0x10, 0xFE]) [] := by decide
theorem test_decode_envAck : decode Params.ref .envelope [0xC2, 0xF0] = .ok (.envAck 0xF0) [] := by decide
theorem test_decode_envAbort : decode Params.ref .envelope [0xC4] = .ok .envAbort [] := by decide
theorem test_decode_rspSync :
    decode Params.ref (.response 0x10) [0xA3, 0x55, 0x00] = .ok (.rspSync 0x10 0xA3 [0x55, 0x00]) [] := by decide
theorem test_decode_rspAsync :
    decode Params.ref (.response 0xF0) [0xA6, 0x00, 0xFE] = .ok (.rspAsync 0xF0 0xA6 0x00 [0xFE]) [] := by decide
theorem test_decode_stPending : decode Params.ref (.status 1) [0xA1, 2] = .ok (.stPending 1 [2]) [] := by decide
theorem test_decode_stInProgress : decode Params.ref (.status 1) [0xA2] = .ok (.stInProgress 1 []) [] := by decide
theorem test_decode_stResult : decode Params.ref (.status 1) [0xA3, 2] = .ok (.stResult 1 [2]) [] := by decide
theorem test_decode_stError : decode Params.ref (.status 1) [0xA4, 3] = .ok (.stError 1 [3]) [] := by decide
theorem test_decode_stStopped : decode Params.ref (.status 1) [0xA5] = .ok (.stStopped 1 []) [] := by decide
theorem test_decode_stAsyncResult :
    decode Params.ref (.status 1) [0xA6, 7] = .ok (.stAsyncResult 1 [7]) [] := by decide
theorem test_decode_stAsyncError :
    decode Params.ref (.status 1) [0xA7, 7, 8] = .ok (.stAsyncError 1 [7, 8]) [] := by decide
theorem test_decode_stWaiting : decode Params.ref (.status 1) [0xA8] = .ok (.stWaiting 1 []) [] := by decide
theorem test_decode_stOverflow : decode Params.ref (.status 1) [0xB1] = .ok (.stOverflow 1 []) [] := by decide
theorem test_decode_stAlreadyExists :
    decode Params.ref (.status 1) [0xB2] = .ok (.stAlreadyExists 1 []) [] := by decide
theorem test_decode_stNotFound : decode Params.ref (.status 1) [0xB3] = .ok (.stNotFound 1 []) [] := by decide
theorem test_decode_stIllegalValue :
    decode Params.ref (.status 1) [0xB4] = .ok (.stIllegalValue 1 []) [] := by decide

/-! Refused by name (R54, R81, R86, R89 to R93, R97, R99) -/

theorem test_reject_noStart : decode Params.ref .stream [0x11, 0, 0, 1, 0x9D] = .reject .noStart := by decide
theorem test_reject_needMore : decode Params.ref .stream [0xFE, 0, 0, 1] = .reject .needMore := by decide
theorem test_reject_needToken : decode Params.ref .stream [0xFE, 0, 0, 0x37, 0xFD] = .reject .needMore := by decide
theorem test_reject_badLength : decode Params.ref .stream [0xFE, 0x80, 0, 1, 0x9D] = .reject .badLength := by decide
theorem test_reject_badEscape :
    decode Params.ref .stream [0xFE, 1, 0, 5, 0xFD, 0, 0x6B] = .reject .badEscape := by decide
theorem test_reject_noEscape : decode Params.ref .escaped [0xEE] = .reject .noEscape := by decide
theorem test_reject_badToken : decode Params.ref .escaped [0xFD, 0xFD] = .reject .badToken := by decide
theorem test_reject_emptyPayload : decode Params.ref .envelope [] = .reject .emptyPayload := by decide
theorem test_reject_unknownOpcode : decode Params.ref .envelope [0xC3] = .reject .unknownOpcode := by decide
theorem test_reject_envelopeLength : decode Params.ref .envelope [0xC4, 0] = .reject .envelopeLength := by decide
theorem test_reject_reservedFlags : decode Params.ref .envelope [0xC1, 8, 0] = .reject .reservedFlags := by decide
theorem test_reject_badTaskId : decode Params.ref .envelope [0xC1, 1, 224] = .reject .badTaskId := by decide
theorem test_reject_malformedAsync :
    decode Params.ref (.response 0x40) [0xA6] = .reject .malformedAsync := by decide
theorem test_reject_unknownStatus : decode Params.ref (.status 0) [0x99] = .reject .unknownStatus := by decide

/-! The table's words, and a step that runs one (log 19, 20) -/

theorem test_word_frameEmpty : decodeTableWord 32 0x010000FE = some (.frameEmpty 1 0) := by decide
theorem test_word_escEsc : decodeTableWord 16 0xEDFD = some .escEsc := by decide
theorem test_word_envAdd : decodeTableWord 8 0xC1 = some (.envAdd 0 0 []) := by decide
theorem test_word_status : decodeTableWord 8 0xB3 = some (.stNotFound 0 []) := by decide
theorem test_word_runs :
    after (step (State.reset.withFetchWord 16 0xEEFD)) (fun t => t.ret = .byte 0xFE) = true := by decide +kernel

/-! ### One step of each instruction -/

-- R198 (e), V-RX-9: the frame of a result completes task 0 and is acknowledged
theorem test_frame_result :
    gives (.frame 0 [0xA3, 0x55, 0, 0] 0xB7) sent (fun t => t.ev = [.complete 0 0xA3 [0x55, 0, 0]] &&
      t.tx.getLast? = some [0xFE, 0x02, 0x00, 0x01, 0xC2, 0x00, 0x7E] && t.pidCtr = 2 && !t.pendAt 0) = true := by
  decide +kernel
-- R187: one bit off
theorem test_frame_mismatch :
    gives (.frame 0 [0xA3, 0x55, 0, 0] 0xB6) sent (fun t => t.ev = [.crcMismatch 0] &&
      t.tx.getLast? = some [0xFE, 0, 0, 0, 0xAC] && t.pendAt 0) = true := by decide +kernel
-- V-L1-5, V-RX-3
theorem test_frameEmpty_retransmit :
    gives (.frameEmpty 0 0xAC) sent (fun t => t.ev = [.retransmit 0] && t.histAt 0 = none &&
      t.tx.getLast? = some [0xFE, 0x04, 0x00, 0x00, 0xC1, 0x01, 0x00, 0x5A, 0xFA]) = true := by decide +kernel
theorem test_frameEmpty_mismatch :
    gives (.frameEmpty 1 0x9C) blk (fun t => t.ev = [.crcMismatch 1] && t.tx = [[0xFE, 0, 0, 1, 0x9D]]) = true := by
  decide +kernel
theorem test_escStart : gives .escStart blk (fun t => t.ret = .byte 0xFE) = true := by decide +kernel
theorem test_escEsc : gives .escEsc blk (fun t => t.ret = .byte 0xFD) = true := by decide +kernel
-- V-TX-1's frame
theorem test_envAdd :
    gives (.envAdd 1 0 [0x5A]) blk (fun t => t.tx = [[0xFE, 0x04, 0x00, 0x00, 0xC1, 0x01, 0x00, 0x5A, 0xFA]] &&
      t.histAt 0 = t.tx.head? && t.pendAt 0 && t.pidCtr = 1 && t.tidCtr = 0) = true := by decide +kernel
-- V-TX-6, V-TX-4
theorem test_envAck :
    gives (.envAck 1) { blk with pidCtr := 2 } (fun t => t.tx = [[0xFE, 0x02, 0x00, 0x02, 0xC2, 0x01, 0x85]]) = true := by
  decide +kernel
theorem test_envAbort :
    gives .envAbort blk (fun t => t.tx = [[0xFE, 0x01, 0x00, 0x00, 0xC4, 0x02]] && t.pidCtr = 1) = true := by
  decide +kernel
-- P7: ERROR on packet 01 from the state of P1 finds nothing and is still acknowledged; P7's sentinel is not
theorem test_rspSync_unmatched :
    gives (.rspSync 1 0xA3 [0]) { sent with pidCtr := 2 } (fun t => t.ev = [.unmatched 1 0xA3] &&
      t.tx.getLast? = some [0xFE, 0x02, 0x00, 0x02, 0xC2, 0x01, 0x85] && t.pidCtr = 3 && t.pendAt 0) = true := by
  decide +kernel
theorem test_rspSync_sentinel :
    gives (.rspSync 0xF0 0xA3 [1]) sent (fun t => t.ev = [.unmatched 0xF0 0xA3] && t.tx = sent.tx) = true := by
  decide +kernel
-- P3: routed by the explicit task id, not acknowledged
theorem test_rspAsync :
    gives (.rspAsync 0xF0 0xA6 0 [0xFE, 0xFD, 7]) sent (fun t => t.ev = [.complete 0 0xA6 [0xFE, 0xFD, 7]] &&
      t.tx = sent.tx && !t.pendAt 0) = true := by decide +kernel
-- P7: PENDING, and R194 for the other informational statuses: logged, nothing else
theorem test_stPending :
    gives (.stPending 0 []) sent (fun t => t.ev = [.status 0 0xA1 []] && t.tx = sent.tx && t.pendAt 0) = true := by
  decide +kernel
theorem test_stInProgress :
    gives (.stInProgress 0 []) sent (fun t => t.ev = [.status 0 0xA2 []] && t.pendAt 0) = true := by decide +kernel
theorem test_stStopped :
    gives (.stStopped 0 [1]) sent (fun t => t.ev = [.status 0 0xA5 [1]] && t.pendAt 0) = true := by decide +kernel
theorem test_stWaiting :
    gives (.stWaiting 0 []) sent (fun t => t.ev = [.status 0 0xA8 []] && t.pendAt 0) = true := by decide +kernel
theorem test_stOverflow :
    gives (.stOverflow 0 []) sent (fun t => t.ev = [.status 0 0xB1 []] && t.pendAt 0) = true := by decide +kernel
theorem test_stAlreadyExists :
    gives (.stAlreadyExists 0 []) sent (fun t => t.ev = [.status 0 0xB2 []] && t.pendAt 0) = true := by decide +kernel
theorem test_stNotFound :
    gives (.stNotFound 0 []) sent (fun t => t.ev = [.status 0 0xB3 []] && t.pendAt 0) = true := by decide +kernel
theorem test_stIllegalValue :
    gives (.stIllegalValue 0 []) sent (fun t => t.ev = [.status 0 0xB4 []] && t.pendAt 0) = true := by decide +kernel
-- V-RX-10
theorem test_stError :
    gives (.stError 0 [0x0B, 0]) sent (fun t => t.ev = [.complete 0 0xA4 [0x0B, 0]] &&
      t.tx.getLast? = some [0xFE, 0x02, 0x00, 0x01, 0xC2, 0x00, 0x7E]) = true := by decide +kernel
theorem test_stResult :
    gives (.stResult 0 []) sent (fun t => t.ev = [.complete 0 0xA3 []] && !t.pendAt 0 && t.pidCtr = 2) = true := by
  decide +kernel
-- P7 and P4
theorem test_stAsyncResult_malformed :
    gives (.stAsyncResult 0x40 []) sent (fun t => t.ev = [.malformedAsync 0x40 0xA6] && t.pendAt 0) = true := by
  decide +kernel
theorem test_stAsyncError :
    gives (.stAsyncError 0xF0 [0, 0x2A]) sent (fun t => t.ev = [.complete 0 0xA7 [0x2A]] && t.pidCtr = 1) = true := by
  decide +kernel
-- V-TX-3: flags masked, the user byte FE escaped; P5: the orphaned handle
theorem test_send_masks_flags :
    gives (.send 0x0D [0x10, 0xFE]) blk (fun t => t.ret = .number 0 && t.tidCtr = 1 && t.pidCtr = 1 &&
      t.tx = [[0xFE, 0x05, 0x00, 0x00, 0xC1, 0x05, 0x00, 0x10, 0xFD, 0xEE, 0xAD]]) = true := by decide +kernel
theorem test_send_overrun :
    gives (.send 0 [0x77]) { sent with pidCtr := 0, tidCtr := 0 } (fun t => t.faults = 0b001 &&
      t.histAt 0 = some [0xFE, 0x04, 0x00, 0x00, 0xC1, 0x00, 0x00, 0x77, 0x76]) = true := by decide +kernel
-- V-TX-4
theorem test_abort :
    gives .abort blk (fun t => t.tx = [[0xFE, 0x01, 0x00, 0x00, 0xC4, 0x02]] && t.pidCtr = 1 && t.tidCtr = 0 &&
      t.histAt 0 = none) = true := by decide +kernel
theorem test_rxChunk :
    gives (.rxChunk [0xFE, 0]) blk (fun t => t.rb = [0xFE, 0] && t.rxBusy) = true := by decide +kernel
theorem test_rxChunk_overlap : exec (.rxChunk []) { blk with rxBusy := true } = .fault .overlappingRxChunk := by rfl
-- R241
theorem test_reset :
    gives .reset { sent with faults := 7, ev := [.garbage 1] } (fun t => t = blk) = true := by decide +kernel
-- V-RB-1, rows 3 and 4
theorem test_rbAppend_compacts :
    gives (.rbAppend [4]) ((holding [1, 2, 3]).dropHead 2) (fun t => t.rb = [3, 4] && t.rbHead = 0 && t.rbTail = 2 &&
      t.rbCap = 3) = true := by decide +kernel
theorem test_rbAppend_grows :
    gives (.rbAppend [5, 6]) (((holding [1, 2, 3]).dropHead 2).pushTail [4]) (fun t => t.rb = [3, 4, 5, 6] &&
      t.rbHead = 0 && t.rbTail = 4 && t.rbCap = 8) = true := by decide +kernel
-- R123's example
theorem test_rbGet : gives (.rbGet 3) (holding [0xFE, 0, 0, 1, 0x9D]) (fun t => t.ret = .byte 1) = true := by
  decide +kernel
theorem test_rbGet_drained :
    gives (.rbGet 0) blk (fun t => t.ret = .fault (.boundsError 0 0) && t.faults = 0b010 &&
      t.ev = [.fault (.boundsError 0 0)]) = true := by decide +kernel
theorem test_rbTake :
    gives (.rbTake 2) (holding [0xAA, 0xFE, 0]) (fun t => t.ret = .bytes [0xAA, 0xFE] && t.rb = [0]) = true := by
  decide +kernel
theorem test_rbTake_drains :
    gives (.rbTake 3) (holding [0xAA, 0xFE, 0]) (fun t => t.rb = [] && t.rbHead = 0 && t.rbTail = 0 &&
      t.rbCap = 3) = true := by decide +kernel
theorem test_rbSkip : gives (.rbSkip 2) (holding [0x11, 0x22, 0xFE]) (fun t => t.rb = [0xFE] && t.ret = .none) = true := by
  decide +kernel
theorem test_rbFind :
    gives (.rbFind 0xFE 2) (holding [0x11, 0xFE, 0x22, 0xFE]) (fun t => t.ret = .offset (some 3)) = true := by
  decide +kernel
theorem test_rbFind_none :
    gives (.rbFind 0xFE 4) (holding [0x11, 0xFE, 0x22, 0xFE]) (fun t => t.ret = .offset none) = true := by
  decide +kernel
theorem test_rbSize : gives .rbSize (holding [0xFE, 0]) (fun t => t.ret = .number 2) = true := by decide +kernel
theorem test_rbIsEmpty : gives .rbIsEmpty blk (fun t => t.ret = .flag true) = true := by decide +kernel
-- V-CRC-4, V-CRC-6
theorem test_crc8 : gives (.crc8 1 [0xC1, 1, 0, 0x5A]) blk (fun t => t.ret = .byte 0x29) = true := by decide +kernel
theorem test_crc8_catalogue :
    gives (.crc8 0x31 [0x32, 0x33, 0x34, 0x35, 0x36, 0x37, 0x38, 0x39]) blk (fun t => t.ret = .byte 0xF7) = true := by
  decide +kernel
theorem test_escByte : gives (.escByte 0xFD) blk (fun t => t.ret = .bytes [0xFD, 0xED]) = true := by decide +kernel
theorem test_escape :
    gives (.escape [0xFD, 0xEE]) blk (fun t => t.ret = .bytes [0xFD, 0xED, 0xEE]) = true := by decide +kernel
-- V-ESC-3
theorem test_unescape :
    gives (.unescape [0xFD, 0xED, 0xEE]) blk (fun t => t.ret = .unescaped (some [0xFD, 0xEE])) = true := by
  decide +kernel
theorem test_unescape_bad :
    gives (.unescape [0xFD, 0xFD]) blk (fun t => t.ret = .unescaped none) = true := by decide +kernel
-- V-SPAN-1
theorem test_physSpan :
    gives (.physSpan [0xFE, 6, 0, 0x0A, 0xA2, 1, 0x82, 0xFE, 1, 0, 0x0B, 0xA2, 5] 6) blk
      (fun t => t.ret = .span (some 11)) = true := by decide +kernel
theorem test_physSpan_token : gives (.physSpan [0xFE, 0, 0, 0x37, 0xFD] 0) blk (fun t => t.ret = .span none) = true := by
  decide +kernel
-- V-WRAP-2
theorem test_wrapId :
    gives (.wrapId 0 [0x38]) blk (fun t => t.ret = .bytes [0xFE, 1, 0, 0, 0x38, 0xFD, 0xED] && t.pidCtr = 0) = true := by
  decide +kernel
-- R152's example
theorem test_wrapNext :
    gives (.wrapNext []) { blk with pidCtr := 1 } (fun t => t.ret = .wrapped 1 [0xFE, 0, 0, 1, 0x9D] &&
      t.pidCtr = 2) = true := by decide +kernel
theorem test_wrapNext_refused :
    gives (.wrapNext [1, 2, 3]) (short 2) (fun t => t.ev = [.refused .wrapNext (.lengthError 3)] && t.pidCtr = 0) =
      true := by decide +kernel
-- V-WRAP-5
theorem test_unwrap :
    gives (.unwrap [0xFE, 1, 0, 5, 0xFD, 0xEE, 0x6B]) blk (fun t => t.ret = .unwrapped (.ok 5 [0xFE])) = true := by
  decide +kernel
theorem test_unwrap_mismatch :
    gives (.unwrap [0xFE, 1, 0, 4, 0xFD, 0xEE, 0x6B]) blk (fun t => t.ret = .unwrapped (.crcMismatch 4)) = true := by
  decide +kernel
-- V-ID-1
theorem test_allocPid :
    gives .allocPid { blk with pidCtr := 223 } (fun t => t.ret = .number 223 && t.pidCtr = 0) = true := by decide +kernel
theorem test_allocTid :
    gives .allocTid { blk with tidCtr := 222 } (fun t => t.ret = .number 222 && t.tidCtr = 223 && t.pidCtr = 0) =
      true := by decide +kernel
-- V-TBL-1
theorem test_histPut :
    gives (.histPut 223 [1]) blk (fun t => t.histAt 223 = some [1] && t.histAt 222 = none) = true := by decide +kernel
theorem test_histTake :
    gives (.histTake 0) sent (fun t => t.ret = .frame sent.tx.head? && t.histAt 0 = none) = true := by decide +kernel
theorem test_histTake_high : gives (.histTake 0xF0) sent (fun t => t.ret = .frame none) = true := by decide +kernel
theorem test_pendPut :
    gives (.pendPut 0) sent (fun t => t.pendAt 0 && t.faults = 0b001 && t.ev = []) = true := by decide +kernel
theorem test_pendTake : gives (.pendTake 0) sent (fun t => t.ret = .flag true && !t.pendAt 0) = true := by
  decide +kernel
theorem test_pendTake_high : gives (.pendTake 0xF0) sent (fun t => t.ret = .flag false && t.pendAt 0) = true := by
  decide +kernel
-- V-TX-5, a raw START at index 3 (U4); V-TX-6
theorem test_txNeg :
    gives (.txNeg 0xFE) blk (fun t => t.tx = [[0xFE, 0, 0, 0xFE, 0x31]] && t.pidCtr = 0) = true := by decide +kernel
theorem test_txAck :
    gives (.txAck 0) { blk with pidCtr := 1 } (fun t => t.tx = [[0xFE, 2, 0, 1, 0xC2, 0, 0x7E]] && t.pidCtr = 2) =
      true := by decide +kernel
-- R169's example
theorem test_retransmit :
    gives (.retransmit 0) sent (fun t => t.tx = sent.tx ++ sent.tx && t.ev = [.retransmit 0] && t.pendAt 0) = true := by
  decide +kernel
theorem test_retransmit_unknown :
    gives (.retransmit 1) sent (fun t => t.tx = sent.tx && t.ev = [.unknownRetransmit 1]) = true := by decide +kernel
-- V-RX-6; V-RX-5's garbage after the frame stays in the buffer
theorem test_parseStep_false_start :
    gives .parseStep (holding [0xFE, 0xFE, 0, 0, 1, 0x9D]) (fun t => t.ev = [.badLength 0xFE 0] && t.ret = .turn .cont &&
      t.rb = [0xFE, 0, 0, 1, 0x9D]) = true := by decide +kernel
theorem test_parseStep_mismatch :
    gives .parseStep (holding [0x11, 0xFE, 0, 0, 0xFE, 0, 0]) (fun t => t.ev = [.garbage 1, .crcMismatch 0xFE] &&
      t.tx = [[0xFE, 0, 0, 0xFE, 0x31]] && t.rb = [0]) = true := by decide +kernel
theorem test_dispatch_unknown :
    gives (.dispatch 2 0x99 [1]) sent (fun t => t.ev = [.unknownStatus 2 0x99 [1]] && t.ret = .turn .cont) = true := by
  decide +kernel
theorem test_complete :
    gives (.complete 0 0xA3 [0x55, 0, 0]) sent (fun t => t.ev = [.complete 0 0xA3 [0x55, 0, 0]] && t.tx = sent.tx &&
      t.histAt 0 = sent.histAt 0) = true := by decide +kernel

/-! Steps of the machine (R9, R60, R64, R180, R225) -/

theorem test_step_idle : step blk = .next blk := by rfl
-- R9, R211, R213 row 33: TESC equal to TSTART breaks K1; the refusal is logged and returned once
theorem test_step_refused :
    after (step (State.fresh { Params.ref with tesc := 0xEE })) (fun t =>
      t.ev = [.refused .instantiation (.badParameters .k1)] && t.ret = .refused (.badParameters .k1) && t.tx = []) =
      true := by decide +kernel
theorem test_step_refused_told :
    step { State.fresh { Params.ref with tesc := 0xEE } with ret := .refused (.badParameters .k1) } =
      .refused (.badParameters .k1) := by rfl
theorem test_refused_code : (RefuseReason.badParameters .k1).code = 5 := by rfl
-- R8's defaults
theorem test_defaults :
    Config.binding.maxLen = 32767 ∧ Config.binding.pidInit = 0 ∧ Config.binding.tidInit = 0 ∧
      Config.binding.rbCapInit = 0 ∧ Config.binding.rbCapMax = none := ⟨rfl, rfl, rfl, rfl, rfl⟩
-- R215: a delivery waits for the end of the RX_CHUNK in progress
theorem test_step_delivery_waits :
    after (step { holding [0xFE] with rxBusy := true, cmds := [.rxChunk [1]], sched := [.receiver] })
      (fun t => t.ret = .turn .wait && !t.rxBusy && t.cmds = [.rxChunk [1]] && t.rb = [0xFE]) = true := by
  decide +kernel
-- R6, R14: the append is the receiver's own step, past what the host has invoked; no move of the host makes it
theorem test_step_receiver_begins :
    after (step { blk with cmds := [.abort, .rxChunk [1]], sched := [.receiver] })
      (fun t => t.rxBusy && t.rb = [1] && t.cmds = [.abort] && t.tx = []) = true := by decide +kernel
theorem test_step_host_leaves_delivery :
    after (step { blk with cmds := [.rxChunk [1]], sched := [.host] })
      (fun t => !t.rxBusy && t.rb = [] && t.cmds = [.rxChunk [1]]) = true := by decide +kernel
-- R60: a SEND behind a waiting delivery does not wait
theorem test_step_host_passes_delivery :
    after (step { holding [0xFE] with rxBusy := true, cmds := [.rxChunk [1], .abort], sched := [.host] })
      (fun t => t.rxBusy && t.tx = [[0xFE, 0x01, 0x00, 0x00, 0xC4, 0x02]] && t.cmds = [.rxChunk [1]]) = true := by
  decide +kernel
theorem test_step_abort_interleaves :
    after (step { holding [0xFE] with rxBusy := true, cmds := [.abort], sched := [.host] })
      (fun t => t.rxBusy && t.tx = [[0xFE, 0x01, 0x00, 0x00, 0xC4, 0x02]] && t.cmds = [] && t.rb = [0xFE]) = true := by
  decide +kernel

/-! ### The hypotheses of the statements are met: for each statement with hypotheses a concrete case -/

/-- A binding with a bounded ring buffer (V-RB-2). -/
def bounded : State := State.fresh { Params.ref with rbCapMax := some 4 }

/-- A transport set to fail its next write (log 8). -/
def failing (s : State) : State := { s with link := [false] }

theorem blk_hist (k : Nat) : blk.histAt k = none := by
  show (Vector.replicate 224 none : Vector (Option Bytes) 224)[k]?.getD none = none
  by_cases h : k < 224 <;> simp [h]

/-- A binding that breaks K1. -/
def broken : State := State.fresh { Params.ref with tesc := 0xEE }

theorem test_wit_BrokenBinding_both :
    (∀ k, constraint blk.cfg k) ∧ (¬ constraint broken.cfg .k1 ∧ broken.ret ≠ .refused (.badParameters .k1)) ∧
      { broken with ret := .refused (.badParameters .k1) }.ret = .refused (.badParameters .k1) := by
  refine ⟨fun k => ?_, ⟨?_, by decide⟩, rfl⟩
  · cases k with
    | k6 => intro m h; cases h
    | _ => simp only [constraint]; decide
  · simp only [constraint]; decide

-- an append that just fits RB_CAP_MAX, and the empty append
theorem test_wit_AppendExtends :
    ((bounded.pushTail [1, 2, 3]).cursorsOk ∧ bounded.cfg.capFits ((bounded.pushTail [1, 2, 3]).rb.length + 1) = true) ∧
    blk.cursorsOk ∧ blk.cfg.capFits (blk.rb.length + ([] : Bytes).length) = true := by
  unfold State.cursorsOk; decide +kernel

-- trailing room exactly used up; free room exactly used up; neither enough
theorem test_wit_AppendMakesRoom :
    (holding [1, 2, 3]).dropHead 2 |>.cursorsOk := by unfold State.cursorsOk; decide +kernel
theorem test_wit_AppendMakesRoom_cases :
    let a := ((holding [1, 2, 3, 4]).dropHead 4).pushTail [5, 6]
    let b := (holding [1, 2, 3]).dropHead 2
    (a.cursorsOk ∧ 2 ≤ a.rbCap - a.rbTail) ∧ (¬ 2 ≤ b.rbCap - b.rbTail ∧ 2 ≤ b.rbCap - b.rb.length) ∧
      ¬ 3 ≤ b.rbCap - b.rbTail ∧ ¬ 3 ≤ b.rbCap - b.rb.length := by
  unfold State.cursorsOk; decide +kernel

theorem test_wit_AppendBeyond :
    bounded.cfg.rbCapMax = some 4 ∧ 4 < (bounded.pushTail [1, 2, 3]).rb.length + 2 := by decide +kernel
theorem test_wit_GetPeeks : (holding [1, 2]).rb[1]? = some 2 := by decide +kernel
theorem test_wit_TakeAndSkip :
    (holding [1, 2]).cursorsOk ∧ 2 = (holding [1, 2]).rb.length ∧ 1 < (holding [1, 2]).rb.length ∧
      blk.cursorsOk ∧ 0 = blk.rb.length := by
  unfold State.cursorsOk; decide +kernel
theorem test_wit_OutOfRange : (holding [1, 2]).rb.length ≤ 2 ∧ (holding [1, 2]).rb.length < 3 := by decide +kernel
theorem test_wit_Find_clauses :
    ((1 : Nat) ≤ 1 ∧ (holding [7, 8]).rb[1]? = some 8) ∧ ∀ j, 2 ≤ j → (holding [7, 8]).rb[j]? ≠ some 7 := by
  refine ⟨by decide +kernel, fun j hj => ?_⟩
  have h : (holding [7, 8]).rb = [7, 8] := by decide +kernel
  rw [h, List.getElem?_eq_none (by simpa using hj)]
  simp
theorem test_wit_SizeAndIsEmpty : blk.cursorsOk ∧ (holding [1]).cursorsOk := by unfold State.cursorsOk; decide +kernel
theorem test_wit_CrcIsAffine :
    ([0xFD, 0xFD] : Bytes).length = ([0xEE, 0xED] : Bytes).length ∧ (5 : Byte) ≠ 4 ∧ (0 : Byte) ≠ 0x80 := by decide
theorem test_wit_Valid : blk.cfg.Valid ∧ sent.cfg.Valid := by decide
theorem test_wit_Unescape_clauses :
    Unescapes blk.cfg [0xFD, 0xEE, 0xEE] [0xFE, 0xEE] ∧ ∀ str, ¬ Unescapes blk.cfg [0xFD] str := by
  refine ⟨.startToken (.plain (by decide) .done), fun str h => ?_⟩
  cases h
  rename_i h _
  exact h rfl
theorem test_wit_PhysSpan :
    4 < (frameBytes blk.cfg 1 [] 0x9D).length ∧ physSpan blk.cfg [0xFE, 0, 0, 1, 0x9D] 0 = some 5 := by decide +kernel
theorem test_wit_length_clauses :
    ([1, 2] : Bytes).length ≤ (short 2).cfg.maxLen.val ∧ (short 2).cfg.maxLen.val < ([1, 2, 3] : Bytes).length := by
  decide
theorem test_wit_UnwrapUndoes : (short 2).cfg.Valid ∧ ([0xFE, 0xFD] : Bytes).length ≤ (short 2).cfg.maxLen.val := by
  decide
-- UnwrapChecksEscapesThenCrc: a body that does not read, one that does, the empty one
theorem test_wit_UnwrapChecks :
    blk.cfg.Valid ∧ (∀ body, ¬ Unescapes blk.cfg [0xFD] body) ∧ Unescapes blk.cfg [0x9D] ([] ++ [0x9D]) ∧
      Unescapes blk.cfg [] [] := by
  refine ⟨by decide, fun body h => ?_, .plain (by decide) .done, .done⟩
  cases h
  rename_i h _
  exact h rfl
-- SendSubmitsOneTask: the longest envelope that fits, a pending task id, and the shortest that does not fit
theorem test_wit_Send :
    (short 4).writable ∧ 3 + ([1] : Bytes).length ≤ (short 4).cfg.maxLen.val ∧
      { sent with tidCtr := 0 }.writable ∧ { sent with tidCtr := 0 }.pendAt 0 = true ∧
      (short 4).cfg.maxLen.val < 3 + ([1, 2] : Bytes).length := by
  unfold State.writable; decide +kernel
theorem test_wit_Overlong :
    (short 2).cfg.maxLen.val < 3 + ([] : Bytes).length ∧ (short 0).cfg.maxLen.val < 1 ∧ (short 1).cfg.maxLen.val < 2 ∧
      (short 1).cfg.Valid ∧ (0 : Byte) ≠ (short 1).cfg.sentinelId := by decide
theorem test_wit_EnvelopesGoOut :
    (short 3).writable ∧ 2 ≤ (short 3).cfg.maxLen.val ∧ 1 ≤ (short 3).cfg.maxLen.val ∧
      3 + ([] : Bytes).length ≤ (short 3).cfg.maxLen.val := by
  unfold State.writable; decide +kernel
theorem test_wit_Abort : (short 1).writable ∧ 1 ≤ (short 1).cfg.maxLen.val := by
  unfold State.writable; decide +kernel
theorem test_wit_Negative : blk.writable := by unfold State.writable; decide +kernel
theorem test_wit_Acknowledgement : (short 2).writable ∧ 2 ≤ (short 2).cfg.maxLen.val := by
  unfold State.writable; decide +kernel
theorem test_wit_Retransmit :
    sent.writable ∧ sent.histAt 0 = some [0xFE, 0x04, 0x00, 0x00, 0xC1, 0x01, 0x00, 0x5A, 0xFA] ∧
      sent.histAt 223 = none ∧ sent.histAt 224 = none := by
  unfold State.writable; decide +kernel
-- the two tables at both ends of their keys
theorem test_wit_table_keys :
    (0xDF : Byte).toNat = 223 ∧ (0xE0 : Byte).toNat = 224 ∧ sent.pendAt 0 = true ∧ sent.pendAt 223 = false := by
  decide +kernel
-- FailedWrite: an operation of each kind that writes a frame, and one that writes none
theorem test_wit_FailedWrite :
    (failing blk).link.head? = some false ∧
      gives .abort { failing blk with link := [true] } (fun u => blk.tx.length < u.tx.length) = true ∧
      gives (.retransmit 0) { failing sent with link := [true] } (fun u => sent.tx.length < u.tx.length) = true ∧
      gives .parseStep { failing (holding [0xFE, 0, 0, 1, 0x9C]) with link := [true] }
        (fun u => blk.tx.length < u.tx.length) = true ∧
      gives .rbSize { failing blk with link := [true] } (fun u => u.tx.length ≤ blk.tx.length) = true := by
  decide +kernel
-- R170: what a failed write leaves
theorem test_failed_abort :
    gives .abort (failing blk) (fun t => t.pidCtr = 1 && t.tx = [] && t.faults = 0 && t.link = [] &&
      t.ev = [.fault (.transportFault [0xFE, 0x01, 0x00, 0x00, 0xC4, 0x02])]) = true := by decide +kernel
theorem test_failed_retransmit :
    gives (.retransmit 0) (failing sent) (fun t => t.histAt 0 = none && t.tx = sent.tx && t.faults = 0 &&
      t.ev = [.fault (.transportFault [0xFE, 0x04, 0x00, 0x00, 0xC1, 0x01, 0x00, 0x5A, 0xFA])]) = true := by
  decide +kernel
theorem test_failed_parseStep :
    gives .parseStep (failing (holding [0xFE, 0, 0, 1, 0x9C])) (fun t => t.rb = [] && t.tx = [] &&
      t.ev = [.crcMismatch 1, .fault (.transportFault [0xFE, 0, 0, 1, 0x9D])] &&
      t.ret = .fault (.transportFault [0xFE, 0, 0, 1, 0x9D])) = true := by decide +kernel
theorem test_wit_ReceiveChunk :
    bounded.cursorsOk ∧ bounded.rxBusy = false ∧ bounded.cfg.capFits (bounded.rb.length + 4) = true ∧
      bounded.cfg.capFits (bounded.rb.length + 5) = false := by
  unfold State.cursorsOk; decide +kernel
theorem test_wit_Overlapping : { blk with rxBusy := true }.rxBusy = true := rfl
theorem test_wit_Terminal :
    sent.cfg.Valid ∧ sent.writable ∧ 2 ≤ sent.cfg.maxLen.val ∧ (0xA3 : Byte) = sent.cfg.stResult ∧
      (0xA4 : Byte) = sent.cfg.stError ∧ (0xF0 : Byte) = sent.cfg.sentinelId ∧ (0 : Byte) ≠ sent.cfg.sentinelId ∧
      Instr.stResult 0 [] ∈ [Instr.stResult 0 [], .rspSync 0 0xA3 [], .dispatch 0 0xA3 []] ∧
      Instr.stError 0 [] ∈ [Instr.stError 0 [], .rspSync 0 0xA4 [], .dispatch 0 0xA4 []] := by
  unfold State.writable; decide +kernel
theorem test_wit_Async :
    sent.cfg.Valid ∧ (0xA6 : Byte) = sent.cfg.stAsyncResult ∧ (0xA7 : Byte) = sent.cfg.stAsyncError := by decide
theorem test_wit_Others :
    sent.cfg.Valid ∧ ((0xB4 : Byte), Instr.stIllegalValue 0 []) ∈ informationalRows sent.cfg 0 [] ∧
      (0x99 : Byte) ∉ sent.cfg.statuses := by decide
theorem test_wit_ReceivedFrames :
    sent.writable ∧ (0 : Byte) ≠ crc8 0 (0xA3 :: []) ∧ (0x9C : Byte) ≠ crc8 1 [] := by
  unfold State.writable; decide +kernel
-- an empty buffer, four bytes, five bytes with the last an ESC without its token
theorem test_wit_ParseStepWaits :
    blk.rb = [] ∧ ((holding [0xFE, 0, 0, 1]).rb.head? = some 0xFE ∧ (holding [0xFE, 0, 0, 1]).rb.length < 5) ∧
      (holding [0xFE, 0, 0, 0x37, 0xFD]).rb.head? = some 0xFE ∧
      acceptedLen blk.cfg ((holding [0xFE, 0, 0, 0x37, 0xFD]).rb.getD 1 0) ((holding [0xFE, 0, 0, 0x37, 0xFD]).rb.getD 2 0) =
        some 0 ∧
      physSpan blk.cfg (holding [0xFE, 0, 0, 0x37, 0xFD]).rb 0 = none := by decide +kernel
theorem test_wit_WaitIsIdempotent :
    ∃ t, exec .parseStep (holding [0x11, 0xFE, 0]) = .next t ∧ t.ret = .turn .wait := by
  obtain ⟨t, h1, h2⟩ := next_of_after (o := exec .parseStep (holding [0x11, 0xFE, 0]))
    (p := fun t => t.ret = .turn .wait) (by decide +kernel)
  exact ⟨t, h1, by simpa using h2⟩
theorem test_wit_Garbage :
    (holding [0x11]).cursorsOk ∧ ([0x11] : Bytes) ≠ [] ∧ (0xFE : Byte) ∉ ([0x11] : Bytes) ∧ (holding [0x11]).rb = [0x11] ∧
      (holding [0x11, 0xFE]).cursorsOk ∧ (holding [0x11, 0xFE]).rb = [0x11] ++ 0xFE :: [] := by
  unfold State.cursorsOk; decide +kernel
-- bit 7 of LEN_LOW7 alone, and a length one above MAX_LEN (V-RX-8)
theorem test_wit_BadLength :
    (holding [0xFE, 0x80, 0, 1, 2]).cursorsOk ∧ (holding [0xFE, 0x80, 0, 1, 2]).rb = 0xFE :: 0x80 :: 0 :: 1 :: 2 :: [] ∧
      128 ≤ (0x80 : Byte).toNat ∧ ((short 4).pushTail [0xFE, 5, 0, 1, 2]).cursorsOk ∧
      ((short 4).pushTail [0xFE, 5, 0, 1, 2]).rb = 0xFE :: 5 :: 0 :: 1 :: 2 :: [] ∧
      (short 4).cfg.maxLen.val < (5 : Byte).toNat % 128 + 128 * (0 : Byte).toNat := by
  unfold State.cursorsOk; decide +kernel
theorem test_wit_BadEscape :
    (holding [0xFE, 0, 0, 5, 0xFD, 0x12]).writable ∧
      decodeFrame blk.cfg (holding [0xFE, 0, 0, 5, 0xFD, 0x12]).rb = .reject .badEscape := by
  unfold State.writable; decide +kernel
theorem test_wit_ParseStepRuns :
    (holding [0xFE, 0, 0, 1, 0x9D, 0xFE]).cursorsOk ∧
      decodeFrame blk.cfg (holding [0xFE, 0, 0, 1, 0x9D, 0xFE]).rb = .ok (.frameEmpty 1 0x9D) [0xFE] ∧
      decodeFrame blk.cfg (holding [0xFE, 0, 0, 1, 0x9D]).rb = .ok (.frameEmpty 1 0x9D) [] := by
  unfold State.cursorsOk; decide +kernel
theorem test_wit_Continue :
    ∃ t, exec .parseStep (holding [0xFE, 0x80, 0, 1, 2]) = .next t ∧ t.ret = .turn .cont := by
  obtain ⟨t, h1, h2⟩ := next_of_after (o := exec .parseStep (holding [0xFE, 0x80, 0, 1, 2]))
    (p := fun t => t.ret = .turn .cont) (by decide +kernel)
  exact ⟨t, h1, by simpa using h2⟩
theorem test_wit_Echoed :
    blk.cfg.Valid ∧ (holding (wrapFrame blk.cfg 5 [0xFE])).cursorsOk ∧ ([0xFE] : Bytes).length ≤ blk.cfg.maxLen.val ∧
      (holding (wrapFrame blk.cfg 5 [0xFE])).rb = wrapFrame blk.cfg 5 [0xFE] ∧
      (holding (wrapFrame blk.cfg 5 [])).rb = wrapFrame blk.cfg 5 [] ∧ (holding (wrapFrame blk.cfg 5 [])).writable := by
  unfold State.cursorsOk State.writable; decide +kernel
theorem test_wit_OneFrame :
    ∃ t, exec .parseStep (holding [0xFE, 0, 0, 1, 0x9C]) = .next t ∧ t.tx ≠ [] := by
  obtain ⟨t, h1, h2⟩ := next_of_after (o := exec .parseStep (holding [0xFE, 0, 0, 1, 0x9C]))
    (p := fun t => t.tx ≠ []) (by decide +kernel)
  exact ⟨t, h1, by simpa using h2⟩
theorem test_wit_Chunking :
    bounded.cursorsOk ∧ bounded.link = [] ∧ bounded.rxBusy = false ∧
      bounded.cfg.capFits (bounded.rb.length + (([0xFE, 0] : Bytes).length + ([0, 0] : Bytes).length)) = true := by
  unfold State.cursorsOk; decide +kernel
-- the host's move: by default, by the schedule past a waiting delivery, and with nothing of its own invoked
theorem test_wit_StepRunsInvoked :
    let a : State := { blk with cmds := [.rbSize] }
    let b : State := { blk with cmds := [.rxChunk [1], .abort], sched := [.host], rxBusy := true }
    (a.cfg.Valid ∧ a.cmds = [] ++ .rbSize :: [] ∧ a.sched = [] ∧ a.rxBusy = false ∧ ∀ bytes, a.cmds.head? ≠ some (.rxChunk bytes)) ∧
      (b.cfg.Valid ∧ b.cmds = [.rxChunk [1]] ++ .abort :: [] ∧ (∀ j ∈ [Instr.rxChunk [1]], isDelivery j) ∧
        b.sched.head? = some .host ∧ b.rxBusy = true ∧ interleaves .abort = true) ∧ ¬ isDelivery .rbSize ∧ ¬ isDelivery .abort := by
  refine ⟨⟨by decide, rfl, rfl, rfl, fun _ h => by cases h⟩, ⟨by decide, rfl, ?_, rfl, rfl, rfl⟩, ?_, ?_⟩
  · simp [isDelivery]
  · rintro ⟨_, h⟩; cases h
  · rintro ⟨_, h⟩; cases h
theorem test_wit_StepRunsInvoked_idle :
    let b : State := { blk with cmds := [.rxChunk [1]], sched := [.host] }
    (blk.cfg.Valid ∧ blk.sched = [] ∧ blk.rxBusy = false ∧ blk.cmds = []) ∧
      b.sched.head? = some .host ∧ ∀ j ∈ b.cmds, isDelivery j :=
  ⟨⟨by decide, rfl, rfl, rfl⟩, rfl, by simp [isDelivery]⟩
-- the receiver's move in an RX_CHUNK: by default, by the schedule, and because the host must wait
theorem test_wit_StepRunsFrame :
    let s : State := { holding [0xFE, 0, 0, 1, 0x9D] with rxBusy := true }
    let w : State := { s with cmds := [.rxChunk [1], .rbSize], sched := [.host] }
    s.cfg.Valid ∧ s.cursorsOk ∧ s.rxBusy = true ∧ s.sched = [] ∧
      decodeFrame s.cfg s.rb = .ok (.frameEmpty 1 0x9D) [] ∧
      { s with sched := [.receiver] }.sched.head? = some .receiver ∧
      (w.sched.head? = some .host ∧ w.cmds = [.rxChunk [1]] ++ .rbSize :: [] ∧ interleaves .rbSize = false) := by
  unfold State.cursorsOk; decide +kernel
-- ... and with none in progress: by the schedule past the host's operations, by default, and with no delivery waiting
theorem test_wit_StepRunsFrame_delivery :
    let s : State := { blk with cmds := [.abort, .rxChunk [1]], sched := [.receiver] }
    let d : State := { blk with cmds := [.rxChunk [1]] }
    (s.cfg.Valid ∧ s.rxBusy = false ∧ s.sched.head? = some .receiver ∧ s.cmds = [.abort] ++ .rxChunk [1] :: [] ∧
      ∀ j ∈ [Instr.abort], ¬ isDelivery j) ∧
      (d.sched = [] ∧ d.cmds.head? = some (.rxChunk [1]) ∧ d.cmds = [] ++ .rxChunk [1] :: []) ∧
      { blk with sched := [.receiver] }.rxBusy = false ∧ ∀ j ∈ { blk with sched := [.receiver] }.cmds, ¬ isDelivery j := by
  refine ⟨⟨by decide, rfl, rfl, rfl, ?_⟩, ⟨rfl, rfl, rfl⟩, rfl, ?_⟩
  · simp [isDelivery]
  · intro j h; cases h
theorem test_wit_RingInvariant :
    ∃ t, ({ blk with cmds := [.rbAppend [1]] }.cursorsOk ∧ { blk with cmds := [.rbAppend [1]] }.storageOk) ∧
      step { blk with cmds := [.rbAppend [1]] } = .next t := by
  refine ⟨_, ⟨?_, ?_⟩, rfl⟩
  · unfold State.cursorsOk; decide +kernel
  · exact ⟨by decide +kernel, fun cell h => by cases h⟩
theorem test_wit_HistoryInvariant :
    ∃ t, ({ blk with cmds := [.send 1 [0x5A]] }.histOk ∧ { blk with cmds := [.send 1 [0x5A]] }.cmdsOk) ∧
      step { blk with cmds := [.send 1 [0x5A]] } = .next t := by
  refine ⟨_, ⟨fun k f h => ?_, fun pid f h => ?_⟩, rfl⟩
  · have := blk_hist k
    unfold State.histAt at this h
    rw [this] at h
    cases h
  · simp at h
theorem test_wit_Sticky :
    ∃ t, { sent with cmds := [.pendPut 0] }.operationRun ≠ some .reset ∧
      step { sent with cmds := [.pendPut 0] } = .next t :=
  ⟨_, by decide +kernel, rfl⟩
-- a PARSE_STEP while a RESET waits for the host's move
theorem test_wit_Sticky_receiver :
    { sent with rxBusy := true, cmds := [.reset], sched := [.receiver] }.operationRun ≠ some .reset ∧
      after (step { sent with rxBusy := true, cmds := [.reset], sched := [.receiver] }) (fun _ => true) = true := by
  decide +kernel
theorem test_wit_NeverRead : unread { blk with faults := 7, ev := [.garbage 1] } = unread blk := rfl
theorem test_wit_Layout :
    sameView ((holding [1, 2, 3]).dropHead 1) ((holding [2, 3])) ∧
      ((holding [1, 2, 3]).dropHead 1).rbHead ≠ (holding [2, 3]).rbHead := by
  unfold sameView State.cursorsOk; decide +kernel
theorem test_wit_Counters :
    ∃ t, { blk with cmds := [.send 0 []] }.operationRun ≠ some .reset ∧
      { blk with cmds := [.send 0 []] }.operationRun = some (.send 0 []) ∧
      step { blk with cmds := [.send 0 []] } = .next t :=
  ⟨_, by decide +kernel, by decide +kernel, rfl⟩
theorem test_wit_DecodeUndoesEncode :
    Params.ref.Valid ∧ (Instr.frame 1 [0xFE] 0xFD).wellFormed Params.ref = true ∧
      encode Params.ref (.frame 1 [0xFE] 0xFD) = some (.stream, [0xFE, 1, 0, 1, 0xFD, 0xEE, 0xFD, 0xED]) ∧
      encode Params.ref .escEsc = some (.escaped, [0xFD, 0xED]) := by decide +kernel
theorem test_wit_DecoderWellFormed : decode Params.ref .envelope [0xC4] = .ok .envAbort [] := by decide

end Sys2Proof.Tests
end

section
/-! SUPPORT. K1 to K6 as 00_scope.md R9 words them, against the check `Params.violation` makes of them. -/

open Sys2Proof.Claims

namespace Sys2Proof

theorem Params.markerClear_iff (c : Params) (m : Byte) :
    c.markerClear m = true ↔ 224 ≤ m.toNat ∧ m ≠ c.sentinelId := by
  simp [Params.markerClear, idMod]

theorem Params.capFits_iff (c : Params) (n : Nat) : c.capFits n = true ↔ ∀ m, c.rbCapMax = some m → n ≤ m := by
  unfold Params.capFits
  cases c.rbCapMax <;> simp

theorem not_nodup_of_check {l : List Byte} (h : (!distinct l) = true) : ¬ l.Nodup := by
  simpa [← distinct_iff] using h

/-- What `violation` names is broken. -/
theorem Params.not_constraint_of_violation {c : Params} {k : Constraint} (h : c.violation = some k) :
    ¬ constraint c k := by
  unfold Params.violation at h
  split at h
  · cases h
    exact not_nodup_of_check ‹_›
  split at h
  · rename_i hk
    cases h
    simp only [Bool.not_eq_true', ← Bool.not_eq_true, Bool.and_eq_true, Params.markerClear_iff] at hk
    exact fun ⟨h1, h2, h3, h4⟩ => hk ⟨⟨h1, h3⟩, h2, h4⟩
  split at h
  · cases h
    exact Nat.not_le.2 ‹_›
  split at h
  · cases h
    exact not_nodup_of_check ‹_›
  split at h
  · cases h
    exact not_nodup_of_check ‹_›
  split at h
  · rename_i hk
    cases h
    rw [Bool.not_eq_true', ← Bool.not_eq_true, Params.capFits_iff] at hk
    exact hk
  · cases h

/-- The binding passes the check exactly when each of K1 to K6 holds as R9 words it. -/
theorem Params.valid_iff_constraints (c : Params) : c.Valid ↔ ∀ k, constraint c k := by
  constructor
  · intro h k
    obtain ⟨h1, ⟨h2s, h2e⟩, h3, h4, h5, h6⟩ := c.valid_iff.1 h
    rw [Params.markerClear_iff] at h2s h2e
    cases k with
    | k1 => exact h1
    | k2 => exact ⟨h2s.1, h2e.1, h2s.2, h2e.2⟩
    | k3 => exact h3
    | k4 => exact h4
    | k5 => exact h5
    | k6 => exact (c.capFits_iff _).1 h6
  · intro h
    cases hv : c.violation with
    | none => exact hv
    | some k => exact absurd (h k) (Params.not_constraint_of_violation hv)

end Sys2Proof
end

section
/-! SUPPORT. Who moves, and what the move is: the rules of 20_memory.md R60 and R64 as equations of `move`, in the words
of the statements (`isDelivery`). -/

open Sys2Proof.Claims

namespace Sys2Proof.Machine

theorem agentOf_eq_receiver (i : Instr) : agentOf i = .receiver ↔ isDelivery i := by
  cases i <;> simp [agentOf, isDelivery]

theorem agentOf_eq_host (i : Instr) : agentOf i = .host ↔ ¬ isDelivery i := by
  rw [← agentOf_eq_receiver]
  cases agentOf i <;> simp

theorem agentOf_ne_receiver (i : Instr) : agentOf i ≠ .receiver ↔ ¬ isDelivery i :=
  not_congr (agentOf_eq_receiver i)

theorem agentOf_ne_host (i : Instr) : agentOf i ≠ .host ↔ isDelivery i := by simp [agentOf_eq_host]

theorem nextAgent_sched (s : State) : (nextAgent s).2 = s.sched.tail := by
  unfold nextAgent
  split <;> simp_all

theorem nextAgent_scheduled {s : State} {a : Agent} (h : s.sched.head? = some a) : (nextAgent s).1 = a := by
  obtain ⟨l, hl⟩ := List.head?_eq_some_iff.1 h
  simp [nextAgent, hl]

/-- With no schedule the receiver goes on with its RX_CHUNK (log 5). -/
theorem nextAgent_default_busy {s : State} (hs : s.sched = []) (hb : s.rxBusy = true) :
    (nextAgent s).1 = .receiver := by
  simp [nextAgent, hs, hb]

/-- With no schedule and no RX_CHUNK in progress the agent of the oldest invoked operation moves (log 5). -/
theorem nextAgent_default_free {s : State} (hs : s.sched = []) (hb : s.rxBusy = false) :
    (nextAgent s).1 = (s.cmds.head?.map agentOf).getD .host := by
  simp [nextAgent, hs, hb]

theorem move_host {s : State} (h : (nextAgent s).1 = .host) : move s = hostMove (s.setSched s.sched.tail) := by
  rw [← nextAgent_sched]
  unfold move
  split <;> simp_all

theorem move_receiver {s : State} (h : (nextAgent s).1 = .receiver) :
    move s = receiverMove (s.setSched s.sched.tail) := by
  rw [← nextAgent_sched]
  unfold move
  split <;> simp_all

/-- An agent runs the first operation of its own, past those of the other (R60). -/
theorem runOldest_append {a : Agent} {s : State} {pre post : List Instr} {i : Instr} (hc : s.cmds = pre ++ i :: post)
    (hp : ∀ j ∈ pre, agentOf j ≠ a) (hi : agentOf i = a) :
    runOldest a s = exec i (s.setCmds (pre ++ post)) := by
  simp [runOldest, hc, oldestOf_append hp hi]

/-- The host's oldest operation, when only deliveries stand before it. -/
theorem oldestOf_host_past_deliveries {pre post : List Instr} {i : Instr} (hp : ∀ j ∈ pre, isDelivery j)
    (hi : ¬ isDelivery i) : oldestOf .host (pre ++ i :: post) = some (i, pre ++ post) :=
  oldestOf_append (fun j hj => (agentOf_ne_host j).2 (hp j hj)) ((agentOf_eq_host i).2 hi)

theorem hostWaits_of_oldest {s : State} {i : Instr} {rest : List Instr} (h : oldestOf .host s.cmds = some (i, rest)) :
    hostWaits s = (s.rxBusy && !interleaves i) := by
  simp [hostWaits, h]

theorem hostWaits_of_deliveries {s : State} (h : ∀ j ∈ s.cmds, isDelivery j) : hostWaits s = false := by
  have : oldestOf .host s.cmds = none := oldestOf_none fun j hj => (agentOf_ne_host j).2 (h j hj)
  simp [hostWaits, this]

/-- Only RX_CHUNK has no next state, and only while one is in progress (U6). -/
theorem exec_next {i : Instr} {s : State} (h : isDelivery i → s.rxBusy = false) : ∃ t, exec i s = .next t := by
  rcases exec_next_or_overlap i s with hn | ⟨-, hb, hd⟩
  · exact hn
  · simp [h hd] at hb

theorem runOldest_total {a : Agent} {s : State} (h : a = .receiver → s.rxBusy = false) :
    ∃ t, runOldest a s = .next t := by
  cases ho : oldestOf a s.cmds with
  | none => exact ⟨s, by simp [runOldest, ho]⟩
  | some p =>
    obtain ⟨i, rest⟩ := p
    obtain ⟨t, ht⟩ := exec_next (i := i) (s := s.setCmds rest)
      fun hd => h ((oldestOf_some ho).1.symm.trans ((agentOf_eq_receiver i).2 hd))
    exact ⟨t, by simpa [runOldest, ho] using ht⟩

theorem receiverMove_total (s : State) : ∃ t, receiverMove s = .next t := by
  cases hb : s.rxBusy with
  | true => exact let ⟨_, _, h⟩ := receiverMove_busy hb; ⟨_, h⟩
  | false => rw [receiverMove_free hb]; exact runOldest_total fun _ => hb

theorem hostMove_total (s : State) : ∃ t, hostMove s = .next t := by
  cases hw : hostWaits s with
  | true => rw [hostMove_waits hw]; exact receiverMove_total s
  | false => rw [hostMove_runs hw]; exact runOldest_total nofun

/-- An instantiated block always has its next state (R14, R60). -/
theorem move_total (s : State) : ∃ t, move s = .next t := by
  cases ha : (nextAgent s).1 with
  | host => rw [move_host ha]; exact hostMove_total _
  | receiver => rw [move_receiver ha]; exact receiverMove_total _

end Sys2Proof.Machine
end

section
/-! SUPPORT. A PARSE_STEP leaves the flag of the RX_CHUNK in progress to the receiver's own loop (R180, log 6), so that
after its move the flag says whether the PARSE_STEP answered CONTINUE. -/

namespace Sys2Proof.Machine

@[simp] theorem txWrite_rxBusy (f : Bytes) (s : State) : (txWrite f s).1.rxBusy = s.rxBusy := by
  unfold txWrite
  split <;> rfl

@[simp] theorem sendUnstored_rxBusy (env : Bytes) (s : State) : (sendUnstored env s).1.rxBusy = s.rxBusy := by
  unfold sendUnstored
  split
  · rfl
  · exact txWrite_rxBusy _ _

@[simp] theorem resend_rxBusy (id : Byte) (s : State) : (resend id s).1.rxBusy = s.rxBusy := by
  cases hf : s.histAt id.toNat with
  | none => rw [resend_unknown hf]; rfl
  | some f =>
    by_cases hw : s.writable
    · rw [resend_taken hf hw]; rfl
    · rw [resend_failed hf hw]; rfl

@[simp] theorem completeTask_rxBusy (key status : Byte) (rest : Bytes) (s : State) :
    (completeTask key status rest s).rxBusy = s.rxBusy := by
  cases hp : s.pendAt key.toNat with
  | true => rw [completeTask_pending hp]; rfl
  | false => rw [completeTask_unmatched hp]; rfl

@[simp] theorem routeStatus_rxBusy (key status : Byte) (rest : Bytes) (s : State) :
    (routeStatus key status rest s).rxBusy = s.rxBusy := by
  unfold routeStatus
  split
  · exact completeTask_rxBusy _ _ _ _
  · split <;> rfl

@[simp] theorem dispatchPayload_rxBusy (id status : Byte) (tail : Bytes) (s : State) :
    (dispatchPayload id status tail s).1.rxBusy = s.rxBusy := by
  unfold dispatchPayload
  split
  · rfl
  · rename_i key rest _
    have hack : (sendAck key (routeStatus key status rest s)).1.rxBusy = s.rxBusy := by simp [sendAck]
    dsimp only
    split
    · split <;> simp_all
    · exact routeStatus_rxBusy _ _ _ _

@[simp] theorem thenContinue_fst (p : State × Reply Unit) : (thenContinue p).1 = p.1 := by
  obtain ⟨s, a | f | r⟩ := p <;> rfl

@[simp] theorem handleUnwrapped_rxBusy (u : Unwrapped) (s : State) : (handleUnwrapped u s).1.rxBusy = s.rxBusy := by
  cases u with
  | badEscape id => simp [handleUnwrapped, sendNegative]
  | crcMismatch id => simp [handleUnwrapped, sendNegative]
  | ok id payload => cases payload <;> simp [handleUnwrapped, handlePayload]

@[simp] theorem parseCandidate_rxBusy (s : State) : (parseCandidate s).1.rxBusy = s.rxBusy := by
  unfold parseCandidate
  split
  · rfl
  · dsimp only
    split
    · simp
    · split <;> simp

@[simp] theorem parseOne_rxBusy (s : State) : (parseOne s).1.rxBusy = s.rxBusy := by
  unfold parseOne
  split
  · rfl
  · split
    · simp
    · split <;> simp

theorem exec_parseStep_rxBusy {s t : State} (h : exec .parseStep s = .next t) : t.rxBusy = s.rxBusy := by
  obtain ⟨r, hr⟩ := conclude_next .turn (parseOne s)
  cases hr.symm.trans h
  exact parseOne_rxBusy s

/-- After a PARSE_STEP the RX_CHUNK stays in progress exactly when CONTINUE was answered (R180, log 8). -/
theorem afterTurn_of_busy {t : State} (h : t.rxBusy = true) :
    afterTurn t = { t with rxBusy := decide (t.ret = .turn .cont) } := by
  unfold afterTurn
  split
  · rename_i hc
    rw [decide_eq_true hc, ← h]
  · rename_i hc
    rw [decide_eq_false hc]
    rfl

/-- The receiver's move in an RX_CHUNK in progress is a PARSE_STEP (R14, R180). -/
theorem receiverMove_parses {s : State} (h : s.rxBusy = true) :
    ∃ t, exec .parseStep s = .next t ∧
      receiverMove s = .next { t with rxBusy := decide (t.ret = .turn .cont) } := by
  obtain ⟨t, ht, hm⟩ := receiverMove_busy h
  exact ⟨t, ht, by rw [hm, afterTurn_of_busy ((exec_parseStep_rxBusy ht).trans h)]⟩

end Sys2Proof.Machine
end

section
/-! SUPPORT. PARSE_STEP and the decoder read one frame alike (43_receive_path.md R184 to R187, R96): when the bytes at
the head of the ring buffer decode to a frame, the PARSE_STEP is that frame's instruction on the buffer without them. -/

namespace Sys2Proof

/-- What the decoder of the byte stream has found when it answers a frame. -/
theorem decodeFrame_ok {c : Params} {bs rest : Bytes} {i : Instr} (h : decodeFrame c bs = .ok i rest) :
    bs.head? = some c.start ∧ 5 ≤ bs.length ∧ ∃ len n body,
      acceptedLen c (bs.getD 1 0) (bs.getD 2 0) = some len ∧ physSpan c bs len = some n ∧
      unescape c ((bs.take n).drop 4) = some body ∧
      i = frameInstr (bs.getD 3 0) (body.take len) (body.getD len 0) ∧ rest = bs.drop n := by
  unfold decodeFrame at h
  split at h
  · cases h
  split at h
  · cases h
  split at h
  · cases h
  split at h
  · cases h
  split at h
  · cases h
  cases h
  exact ⟨not_not.1 ‹_›, Nat.not_lt.1 ‹_›, _, _, _, ‹_›, ‹_›, ‹_›, rfl, rfl⟩

theorem acceptedLen_some {c : Params} {l0 l1 : Byte} {len : Nat} (h : acceptedLen c l0 l1 = some len) :
    declaredLen l0 l1 = len := by
  unfold acceptedLen at h
  split at h
  · cases h
  split at h
  · cases h
  exact Option.some.inj h

theorem frameByte_take {bs : Bytes} {n i : Nat} (hn : i < n) (hl : n ≤ bs.length) :
    frameByte (bs.take n) i = bs.getD i 0 := by
  have : i < bs.length := by omega
  simp [frameByte, hn, this]

/-- UNWRAP of a whole span whose escapes are good is the CRC check alone (R149): the length is right by R147. -/
theorem unwrap_span {c : Params} {bs body : Bytes} {len n : Nat}
    (hl : acceptedLen c (bs.getD 1 0) (bs.getD 2 0) = some len) (hn : physSpan c bs len = some n)
    (hb : unescape c ((bs.take n).drop 4) = some body) :
    unwrap c (bs.take n) =
      if crc8 (bs.getD 3 0) (body.take len) = body.getD len 0 then .ok (bs.getD 3 0) (body.take len)
      else .crcMismatch (bs.getD 3 0) := by
  obtain ⟨h5, hle⟩ := Machine.physSpan_le hn
  have hlen : body.length = len + 1 := unescape_spanWalk c _ _ _ _ _ hn (by rwa [← List.drop_take])
  unfold unwrap
  rw [frameByte_take (by omega) hle, frameByte_take (by omega) hle, frameByte_take (by omega) hle, hb,
    acceptedLen_some hl]
  simp [hlen]

end Sys2Proof

namespace Sys2Proof.Machine

/-- A frame instruction is phases 6 to 8 on its fields, whether its payload is empty or not (log 11). -/
theorem exec_frameInstr (id : Byte) (payload : Bytes) (crc : Byte) (s : State) :
    exec (frameInstr id payload crc) s = conclude .turn (handleFrame id payload crc s) := by
  cases payload <;> rfl

theorem ringFind_zero_of_head {s : State} {b : Byte} (h : s.rb.head? = some b) : ringFind b 0 s = some 0 := by
  obtain ⟨t, ht⟩ := List.head?_eq_some_iff.1 h
  simp [ringFind, ht, scanFor]

/-- Phase 1 finds a `START` at offset 0 and leaves the rest to the later phases (R182). -/
theorem parseOne_of_start {s : State} (h : s.rb.head? = some s.cfg.start) : parseOne s = parseCandidate s := by
  have hne : s.rbSize ≠ 0 := fun h0 => by simp [s.rb_eq_nil.2 h0] at h
  simp [parseOne, hne, ringFind_zero_of_head h]

/-- A PARSE_STEP on bytes that decode to a frame takes exactly that frame's bytes and runs it (R186, R187). -/
theorem exec_parseStep_of_decoded {s : State} {i : Instr} {rest : Bytes} (h : decodeFrame s.cfg s.rb = .ok i rest) :
    ∃ n, n ≤ s.rbSize ∧ rest = s.rb.drop n ∧ exec .parseStep s = exec i (s.dropHead n) := by
  obtain ⟨hstart, h5, len, n, body, hl, hn, hb, rfl, rfl⟩ := decodeFrame_ok h
  have hle : n ≤ s.rbSize := by simpa using (physSpan_le hn).2
  have h5' : ¬ s.rbSize < 5 := by simpa using h5
  refine ⟨n, hle, rfl, ?_⟩
  rw [exec_frameInstr, handleFrame, ← unwrap_span hl hn hb]
  show conclude .turn (parseOne s) = _
  rw [parseOne_of_start hstart, parseCandidate, if_neg h5']
  simp only [hl, hn]

theorem State.dropHead_eq_cursors (s : State) (n : Nat) :
    s.dropHead n = { s with rbHead := (s.dropHead n).rbHead, rbTail := (s.dropHead n).rbTail } := by
  unfold State.dropHead
  split <;> rfl

end Sys2Proof.Machine
end

section
/-! SUPPORT. The values of R35 meet the invariants of R36. -/

namespace Sys2Proof.Machine

theorem State.fresh_cursorsOk {c : Params} (h : c.capFits c.rbCapInit = true) : (State.fresh c).cursorsOk :=
  ⟨Nat.le_refl 0, Nat.zero_le _, h, fun _ => rfl⟩

theorem State.fresh_storageOk (c : Params) : (State.fresh c).storageOk := ⟨rfl, nofun⟩

theorem State.fresh_histAt (c : Params) (k : Nat) : (State.fresh c).histAt k = none := by
  simp only [State.histAt, State.fresh, Vector.getElem?_replicate]
  split <;> rfl

theorem State.fresh_histOk (c : Params) : (State.fresh c).histOk := by
  intro k f h
  rw [State.fresh_histAt] at h
  cases h

theorem State.fresh_cmdsOk (c : Params) : (State.fresh c).cmdsOk := nofun

theorem State.fresh_noFault (c : Params) : (State.fresh c).noFault := rfl

/-- K6 of R9. -/
theorem capFits_init_of_valid {c : Params} (h : c.Valid) : c.capFits c.rbCapInit = true :=
  let ⟨_, _, _, _, _, h6⟩ := c.valid_iff.1 h
  h6

end Sys2Proof.Machine
end

section
/-! The statements of 00_scope.md: instantiation, the steps of the two agents, reset, and words of the formats. -/

open Sys2Proof.Claims

namespace Sys2Proof.Machine

/-- Settles O2: `Params.violation` is none exactly when K1 to K6 hold as R9 words them, and names a broken one. -/
theorem brokenBindingIsRefused : Obligations.BrokenBindingIsRefused := by
  unfold Obligations.BrokenBindingIsRefused
  intro s
  refine ⟨fun hall => ?_, fun k hk => ?_⟩
  · have hv := s.cfg.valid_iff_constraints.2 hall
    rw [step_valid hv]
    exact ⟨rfl, move_total s⟩
  · have hv : s.cfg.violation ≠ none := fun hv => hk (s.cfg.valid_iff_constraints.1 hv k)
    obtain ⟨k', hk'⟩ := Option.ne_none_iff_exists'.1 hv
    rw [step_invalid hk']
    exact ⟨k', Params.not_constraint_of_violation hk', refuseInstance_untold, refuseInstance_told⟩

/-- Settles O49: the host moves in both cases, and its oldest operation is the first that is no delivery. -/
theorem stepRunsTheInvokedOperation : Obligations.StepRunsTheInvokedOperation := by
  unfold Obligations.StepRunsTheInvokedOperation
  intro s hv hturn
  have ha : (nextAgent s).1 = .host := by
    rcases hturn with hs | ⟨hs, hb, hd⟩
    · exact nextAgent_scheduled hs
    · rw [nextAgent_default_free hs hb]
      cases hc : s.cmds.head? with
      | none => rfl
      | some i => exact (agentOf_eq_host i).2 fun ⟨bytes, hi⟩ => hd bytes (hi ▸ hc)
  rw [step_valid hv, move_host ha]
  constructor
  · intro pre i post hc hp hi hw
    have ho := oldestOf_host_past_deliveries (post := post) hp hi
    have hwait : hostWaits (s.setSched s.sched.tail) = false := by
      rw [hostWaits_of_oldest (by rw [State.setSched_cmds, hc]; exact ho)]
      simpa using hw
    rw [hostMove_runs hwait, runOldest_append (s := s.setSched s.sched.tail) hc
      (fun j hj => (agentOf_ne_host j).2 (hp j hj)) ((agentOf_eq_host i).2 hi)]
    rfl
  · intro hd
    rw [hostMove_runs (hostWaits_of_deliveries (s := s.setSched s.sched.tail) hd),
      runOldest_none (s := s.setSched s.sched.tail) fun j hj => (agentOf_ne_host j).2 (hd j hj)]
    rfl

/-- A step in an RX_CHUNK in progress is the receiver's move when the receiver moves, or when the host's oldest
operation must wait for the RX_CHUNK's end (R60, R64, log 5, 6). -/
theorem step_eq_receiverMove_of_busy {s : State} (hv : s.cfg.Valid) (hb : s.rxBusy = true)
    (hturn : s.sched.head? = some .receiver ∨ s.sched = [] ∨
      (s.sched.head? = some .host ∧ ∃ pre i post, s.cmds = pre ++ i :: post ∧ (∀ j ∈ pre, isDelivery j) ∧
        ¬ isDelivery i ∧ interleaves i = false)) :
    step s = receiverMove (s.setSched s.sched.tail) := by
  rw [step_valid hv]
  rcases hturn with hs | hs | ⟨hs, pre, i, post, hc, hp, hi, hw⟩
  · exact move_receiver (nextAgent_scheduled hs)
  · exact move_receiver (nextAgent_default_busy hs hb)
  · have ho := oldestOf_host_past_deliveries (post := post) hp hi
    have hwait : hostWaits (s.setSched s.sched.tail) = true := by
      rw [hostWaits_of_oldest (by rw [State.setSched_cmds, hc]; exact ho)]
      simp [hb, hw]
    rw [move_host (nextAgent_scheduled hs), hostMove_waits hwait]

/-- With no RX_CHUNK in progress, a step in which the receiver moves is its oldest delivery (R215, log 5). -/
theorem step_eq_runOldest_of_free {s : State} (hv : s.cfg.Valid) (hb : s.rxBusy = false)
    (hturn : s.sched.head? = some .receiver ∨ (s.sched = [] ∧ ∃ bytes, s.cmds.head? = some (.rxChunk bytes))) :
    step s = runOldest .receiver (s.setSched s.sched.tail) := by
  have ha : (nextAgent s).1 = .receiver := by
    rcases hturn with hs | ⟨hs, bytes, hc⟩
    · exact nextAgent_scheduled hs
    · rw [nextAgent_default_free hs hb, hc]
      rfl
  rw [step_valid hv, move_receiver ha, receiverMove_free (s := s.setSched s.sched.tail) hb]

/-- Settles O50: in an RX_CHUNK the receiver's move is a PARSE_STEP, which runs the frame the decoder reads; with none in
progress it is the oldest delivery. -/
theorem stepRunsTheReceivedFrame : Obligations.StepRunsTheReceivedFrame := by
  unfold Obligations.StepRunsTheReceivedFrame
  intro s hv
  constructor
  · intro hb hturn
    obtain ⟨t, ht, hm⟩ := receiverMove_parses (s := s.setSched s.sched.tail) hb
    have hstep := (step_eq_receiverMove_of_busy hv hb hturn).trans hm
    refine ⟨⟨t, ht, hstep⟩, fun i rest _ hd => ?_⟩
    obtain ⟨n, hn, rfl, he⟩ := exec_parseStep_of_decoded (s := s.setSched s.sched.tail) hd
    exact ⟨_, t, State.dropHead_rb _ hn, State.dropHead_eq_cursors _ n, he ▸ ht, hstep⟩
  · intro hb hturn
    rw [step_eq_runOldest_of_free hv hb hturn]
    constructor
    · intro pre bytes post hc hp
      rw [runOldest_append (a := .receiver) (s := s.setSched s.sched.tail) hc
        (fun j hj => (agentOf_ne_receiver j).2 (hp j hj)) rfl]
      obtain ⟨t, ht⟩ := exec_next (i := .rxChunk bytes) (s := (s.setSched s.sched.tail).setCmds (pre ++ post))
        fun _ => hb
      exact ⟨t, ht, ht⟩
    · intro hd
      rw [runOldest_none (s := s.setSched s.sched.tail) fun j hj => (agentOf_ne_receiver j).2 (hd j hj)]
      rfl

/-- Settles O52: every clause is a fact about `State.fresh`; K6 is what the capacity needs, and `State.reset` has no
bound on it. -/
theorem invariantsHoldAfterReset : Obligations.InvariantsHoldAfterReset := by
  unfold Obligations.InvariantsHoldAfterReset
  refine ⟨fun s hv => ?_, fun c hv => ?_, ?_⟩
  · exact ⟨_, rfl, State.fresh_cursorsOk (capFits_init_of_valid hv), State.fresh_storageOk s.cfg,
      State.fresh_histOk s.cfg, State.fresh_noFault s.cfg, rfl, rfl, rfl, rfl⟩
  · exact ⟨State.fresh_cursorsOk (capFits_init_of_valid hv), State.fresh_storageOk c, State.fresh_histOk c,
      State.fresh_cmdsOk c, State.fresh_noFault c⟩
  · exact ⟨State.fresh_cursorsOk rfl, State.fresh_storageOk _, State.fresh_histOk _, State.fresh_cmdsOk _,
      State.fresh_noFault _⟩

/-- Settles O60: each of the seven is a run of the decoder on a few bytes. -/
theorem writtenOutWordsDecode : Obligations.WrittenOutWordsDecode := by
  unfold Obligations.WrittenOutWordsDecode
  refine ⟨?frame, ?frameEmpty, ?escape, ?addTask, ?asyncResponse, ?status, ?badLength⟩
  all_goals decide

end Sys2Proof.Machine
end

section
/-! SUPPORT. One step keeps a property that the primitive updates keep, when RESET and a direct HIST.PUT keep it where
they run: the two operations `Kept` leaves to each invariant's own proof. -/

namespace Sys2Proof.Machine

/-- An operation runs in an instantiated block only, and is one of those invoked. -/
theorem valid_and_mem_of_operationRun {s : State} {i : Instr} (h : s.operationRun = some i) :
    s.cfg.Valid ∧ i ∈ s.cmds := by
  have taken : ∀ a, (oldestOf a s.cmds).map Prod.fst = some i → i ∈ s.cmds := by
    intro a ho
    obtain ⟨⟨j, rest⟩, hj, rfl⟩ := Option.map_eq_some_iff.1 ho
    obtain ⟨-, pre, post, hq, -⟩ := oldestOf_some hj
    simp [hq]
  unfold State.operationRun at h
  split at h
  · refine ⟨‹_›, ?_⟩
    split at h <;> split at h
    · cases h
    · exact taken _ h
    · cases h
    · exact taken _ h
  · cases h

/-- `Kept.step` for every step: RESET and a direct HIST.PUT need keep the property only when they run. -/
theorem Kept.every_step {P : State → Prop} (k : Kept P) {s t : State}
    (hr : s.operationRun = some .reset → ∀ u, P u → Machine.exec .reset u = .next t → P t)
    (hp : ∀ pid f, s.operationRun = some (.histPut pid f) → ∀ u, P u → P (histPut pid f u))
    (e : Machine.step s = .next t) (h : P s) : P t := by
  by_cases hrun : s.operationRun ≠ some .reset ∧ ∀ pid f, s.operationRun ≠ some (.histPut pid f)
  · exact k.step hrun.1 hrun.2 e h
  obtain ⟨c, -, rfl⟩ | ⟨-, l, rfl | ⟨i, rest, hi, hc, hx⟩ | ⟨-, hnone, -⟩⟩ := step_cases e
  · exact k.ret _ _ (k.emit _ _ h)
  · exact k.sched _ _ h
  · have hu : P ((s.setSched l).setCmds rest) := k.cmds _ rest (oldestOf_subset hc) (k.sched _ l h)
    cases i with
    | reset => exact hr hi _ hu hx
    | histPut pid f => exact k.finish hx (hp pid f hi _ hu)
    | _ => exact k.exec (by simp) (by simp) hx hu
  · simp [hnone] at hrun

/-! ### The ring buffer -/

/-- The invariant of the ring buffer (R36), under a fixed binding. -/
def State.ringOk (c : Params) (s : State) : Prop := (s.cursorsOk ∧ s.storageOk) ∧ s.cfg = c

theorem ringOk_kept (c : Params) : Kept (State.ringOk c) where
  emit _ _ h := h
  ret _ _ h := h
  flags _ _ h := h
  link _ h := h
  tx _ _ h := h
  busy _ _ h := h
  sched _ _ h := h
  cmds _ _ _ h := h
  pid _ h := h
  tid _ h := h
  unstore _ _ h := h
  pend _ _ _ h := h
  store _ _ _ _ _ _ h := h
  drop s n hn h := ⟨⟨s.dropHead_cursorsOk h.1.1 hn, s.dropHead_storageOk n h.1.2⟩, (s.dropHead_cfg n).trans h.2⟩
  push s bs fit h :=
    ⟨⟨s.pushTail_cursorsOk bs h.1.1 fit, s.pushTail_storageOk bs h.1.1 h.1.2 fit⟩, (s.pushTail_cfg bs).trans h.2⟩

/-- Settles O51: the primitive updates keep the invariant, and so does RESET, whose capacity K6 bounds. -/
theorem everyStepKeepsTheRingBufferInvariant : Obligations.EveryStepKeepsTheRingBufferInvariant := by
  unfold Obligations.EveryStepKeepsTheRingBufferInvariant
  intro s t h e
  refine (ringOk_kept s.cfg).every_step (fun hreset u hu hx => ?_) (fun pid f _ u hu => hu) e ⟨h, rfl⟩
  have hfit : u.cfg.capFits u.cfg.rbCapInit = true := by
    rw [hu.2]
    exact capFits_init_of_valid (valid_and_mem_of_operationRun hreset).1
  cases hx
  exact ⟨⟨State.fresh_cursorsOk hfit, State.fresh_storageOk u.cfg⟩, hu.2⟩

/-! ### The fault flags -/

theorem flagsInclude_kept (m : BitVec 3) : Kept fun s => m &&& s.faults = m where
  emit _ _ h := h
  ret _ _ h := h
  link _ h := h
  tx _ _ h := h
  busy _ _ h := h
  sched _ _ h := h
  cmds _ _ _ h := h
  pid _ h := h
  tid _ h := h
  unstore _ _ h := h
  pend _ _ _ h := h
  store _ _ _ _ _ _ h := h
  drop s n _ h := by rwa [s.dropHead_faults]
  push s bs _ h := by rwa [s.pushTail_faults]
  flags s m' h := by
    rw [State.setFlags_faults, BitVec.and_or_distrib_left, h]
    ext i hi
    rw [BitVec.getElem_or, BitVec.getElem_and]
    cases m[i] <;> rfl

/-- Settles O54: the flags set before a step stay set through every primitive update. -/
theorem faultFlagsAreSticky : Obligations.FaultFlagsAreSticky := by
  unfold Obligations.FaultFlagsAreSticky
  intro s t hr e
  exact (flagsInclude_kept s.faults).every_step (fun hreset => absurd hreset hr) (fun _ _ _ _ hu => hu) e
    BitVec.and_self

end Sys2Proof.Machine
end

section
/-! SUPPORT. A frame WRAP_ID builds opens to what was wrapped (41_codec_ops.md R145, R148, R149), so the frame SEND
stores is one `HIST` may hold (10_state.md R36). -/

namespace Sys2Proof

theorem unescape_escape {c : Params} (h : c.Valid) (s : Bytes) : unescape c (escape c s) = some s := by
  induction s with
  | nil => rfl
  | cons b s ih => rw [escape, unescape_escByte h, ih]; rfl

theorem unwrap_wrapFrame {c : Params} (h : c.Valid) (id : Byte) {payload : Bytes}
    (hl : payload.length ≤ c.maxLen.val) : unwrap c (wrapFrame c id payload) = .ok id payload := by
  have hlen : payload.length < 32768 := Nat.lt_of_le_of_lt hl c.maxLen.isLt
  rw [wrapFrame, frameBytes_body]
  simp [unwrap, frameByte, unescape_escape h, declaredLen_split hlen]

namespace Machine

theorem histFrameOk_wrapFrame {c : Params} (h : c.Valid) (pid : IssuedId) (flags : BitVec 3) (tid : IssuedId)
    {user : Bytes} (hl : 3 + user.length ≤ c.maxLen.val) :
    histFrameOk c pid.val (wrapFrame c (idByte pid) (addEnvelope c flags tid user)) := by
  refine ⟨rfl, rfl, flags, tid, user, ?_⟩
  exact unwrap_wrapFrame h (idByte pid) (by simp [addEnvelope]; omega)

/-! ### The history -/

/-- The invariant of `HIST` (R36) and of the frames waiting to be put there, under a fixed binding. -/
def State.historyOk (c : Params) (s : State) : Prop := (s.histOk ∧ s.cmdsOk) ∧ s.cfg = c

/-- Replacing an entry of `HIST` by EMPTY or by a frame it may hold keeps the rest as it was. -/
theorem State.historyOk_setHist {c : Params} {s : State} {k : Nat} {e : Option Bytes} (hk : k < 224)
    (he : ∀ f, e = some f → histFrameOk c k f) (h : s.historyOk c) : (s.setHist k e).historyOk c := by
  obtain ⟨⟨hh, hc⟩, rfl⟩ := h
  refine ⟨⟨fun j f hj => ?_, hc⟩, rfl⟩
  rw [State.histAt_setHist s hk] at hj
  split at hj
  · subst j
    exact he f hj
  · exact hh j f hj

theorem historyOk_kept {c : Params} (hv : c.Valid) : Kept (State.historyOk c) where
  emit _ _ h := h
  ret _ _ h := h
  flags _ _ h := h
  link _ h := h
  tx _ _ h := h
  busy _ _ h := h
  sched _ _ h := h
  cmds _ _ hl h := ⟨⟨h.1.1, fun pid f hf => h.1.2 pid f (hl _ hf)⟩, h.2⟩
  pid _ h := h
  tid _ h := h
  unstore s k h := by
    by_cases hk : k < 224
    · exact State.historyOk_setHist hk nofun h
    · rwa [show s.setHist k none = s by
        simp [State.setHist, Vector.setIfInBounds_eq_of_size_le (Nat.not_lt.1 hk)]]
  pend _ _ _ h := h
  drop s n _ h := by rw [s.dropHead_ringOnly n]; exact h
  push s bs _ h := by rw [s.pushTail_ringOnly bs]; exact h
  store s pid flags tid user hl h := by
    obtain ⟨-, rfl⟩ := id h
    refine State.historyOk_setHist pid.isLt (fun f hf => ?_) h
    cases hf
    exact histFrameOk_wrapFrame hv pid flags tid hl

/-- Settles O53: SEND stores a frame that opens to its own envelope, a direct HIST.PUT one the premise allows, and RESET
empties `HIST`; a refused instantiation changes neither. -/
theorem everyStepKeepsTheHistoryInvariant : Obligations.EveryStepKeepsTheHistoryInvariant := by
  unfold Obligations.EveryStepKeepsTheHistoryInvariant
  intro s t h e
  obtain ⟨k, -, rfl⟩ | ⟨hv, -⟩ := step_cases e
  · exact h
  · refine ((historyOk_kept hv).every_step (fun _ u hu hx => ?_) (fun pid f hput u hu => ?_) e ⟨h, rfl⟩).1
    · cases hx
      exact ⟨⟨State.fresh_histOk u.cfg, hu.1.2⟩, hu.2⟩
    · have hf := h.2 pid f (valid_and_mem_of_operationRun hput).2
      exact State.historyOk_setHist pid.isLt (fun f' hf' => by cases hf'; exact hf) hu

end Machine

end Sys2Proof
end

section
/-! SUPPORT. The id counters (10_state.md R23, R24): an operation takes at most one packet id, and only SEND and ALLOC_TID
take a task id. -/

namespace Sys2Proof.Machine

/-- The two id counters. -/
def State.counters (s : State) : IssuedId × IssuedId := (s.pidCtr, s.tidCtr)

/-- From `s` to `t` the task counter stayed, and `pid_ctr` stayed or advanced once. -/
def State.takesAtMostOnePid (s t : State) : Prop :=
  t.counters = s.counters ∨ t.counters = (allocPid s).1.counters

/-! ### Operations that take no id -/

@[simp] theorem txWrite_counters (f : Bytes) (s : State) : (txWrite f s).1.counters = s.counters := by
  unfold txWrite
  split <;> rfl

@[simp] theorem pendPut_counters (tid : IssuedId) (s : State) : (pendPut tid s).counters = s.counters := by
  unfold pendPut
  split <;> rfl

@[simp] theorem pendTake_counters (key : Byte) (s : State) : (pendTake key s).1.counters = s.counters := by
  unfold pendTake
  split <;> rfl

@[simp] theorem histTake_counters (id : Byte) (s : State) : (histTake id s).1.counters = s.counters := by
  unfold histTake
  split <;> rfl

@[simp] theorem resend_counters (id : Byte) (s : State) : (resend id s).1.counters = s.counters := by
  cases hf : s.histAt id.toNat with
  | none => rw [resend_unknown hf]; rfl
  | some f =>
    by_cases hw : s.writable
    · rw [resend_taken hf hw]; rfl
    · rw [resend_failed hf hw]; rfl

@[simp] theorem completeTask_counters (key status : Byte) (rest : Bytes) (s : State) :
    (completeTask key status rest s).counters = s.counters := by
  cases hp : s.pendAt key.toNat with
  | true => rw [completeTask_pending hp]; rfl
  | false => rw [completeTask_unmatched hp]; rfl

@[simp] theorem routeStatus_counters (key status : Byte) (rest : Bytes) (s : State) :
    (routeStatus key status rest s).counters = s.counters := by
  unfold routeStatus
  split
  · exact completeTask_counters _ _ _ _
  · split <;> rfl

@[simp] theorem dropHead_counters (s : State) (n : Nat) : (s.dropHead n).counters = s.counters := by
  simp [State.counters]

@[simp] theorem ringAppend_counters (bs : Bytes) (s : State) : (ringAppend bs s).1.counters = s.counters := by
  unfold ringAppend
  split
  · simp [State.counters]
  · rfl

@[simp] theorem ringGet_counters (i : Nat) (s : State) : (ringGet i s).1.counters = s.counters := by
  unfold ringGet
  split <;> rfl

@[simp] theorem ringTake_counters (n : Nat) (s : State) : (ringTake n s).1.counters = s.counters := by
  unfold ringTake
  split
  · exact dropHead_counters s n
  · rfl

@[simp] theorem ringSkip_counters (n : Nat) (s : State) : (ringSkip n s).1.counters = s.counters := by
  unfold ringSkip
  split
  · exact dropHead_counters s n
  · rfl

/-! ### Operations that may take a packet id -/

/-- Taking an id depends on the counters alone, so a part that takes none may come first. -/
theorem State.takesAtMostOnePid_of_counters {s u t : State} (hu : u.counters = s.counters)
    (h : u.takesAtMostOnePid t) : s.takesAtMostOnePid t := by
  unfold State.takesAtMostOnePid State.counters at *
  simp_all

theorem sendUnstored_takesAtMostOnePid (env : Bytes) (s : State) :
    s.takesAtMostOnePid (sendUnstored env s).1 := by
  unfold sendUnstored
  split
  · exact .inl rfl
  · exact .inr (txWrite_counters _ _)

/-- The part of SEND after ALLOC_TID takes one packet id. -/
theorem sendAddTask_counters (flags : BitVec 3) (tid : IssuedId) (user : Bytes) (s : State) :
    (sendAddTask flags tid user s).1.counters = (allocPid s).1.counters :=
  (txWrite_counters _ _).trans (pendPut_counters _ _)

/-- A received payload is acknowledged at most once (R195). -/
theorem dispatchPayload_takesAtMostOnePid (id status : Byte) (tail : Bytes) (s : State) :
    s.takesAtMostOnePid (dispatchPayload id status tail s).1 := by
  unfold dispatchPayload
  split
  · exact .inl rfl
  · rename_i key rest _
    have hroute := routeStatus_counters key status rest s
    have hack : s.takesAtMostOnePid (sendAck key (routeStatus key status rest s)).1 :=
      State.takesAtMostOnePid_of_counters hroute (sendUnstored_takesAtMostOnePid _ _)
    dsimp only
    split
    · split <;> simp_all
    · exact .inl hroute

theorem handleUnwrapped_takesAtMostOnePid (u : Unwrapped) (s : State) :
    s.takesAtMostOnePid (handleUnwrapped u s).1 := by
  cases u with
  | crcMismatch id => exact .inl (by rw [handleUnwrapped, thenContinue_fst, sendNegative, txWrite_counters]; rfl)
  | badEscape id => exact .inl (by rw [handleUnwrapped, thenContinue_fst, sendNegative, txWrite_counters]; rfl)
  | ok id payload =>
    cases payload with
    | nil => exact .inl (by rw [handleUnwrapped, handlePayload, thenContinue_fst, resend_counters])
    | cons status tail => exact dispatchPayload_takesAtMostOnePid id status tail s

theorem parseCandidate_takesAtMostOnePid (s : State) : s.takesAtMostOnePid (parseCandidate s).1 := by
  unfold parseCandidate
  split
  · exact .inl rfl
  · dsimp only
    split
    · exact .inl (dropHead_counters s 1)
    · split
      · exact .inl rfl
      · exact State.takesAtMostOnePid_of_counters (dropHead_counters s _) (handleUnwrapped_takesAtMostOnePid _ _)

theorem parseOne_takesAtMostOnePid (s : State) : s.takesAtMostOnePid (parseOne s).1 := by
  unfold parseOne
  split
  · exact .inl rfl
  · split
    · exact .inl (dropHead_counters s _)
    · split
      · exact parseCandidate_takesAtMostOnePid s
      · exact State.takesAtMostOnePid_of_counters (dropHead_counters s _) (parseCandidate_takesAtMostOnePid _)

/-! ### Instructions -/

theorem conclude_takesAtMostOnePid {α : Type} {g : α → Result} {s t : State} {p : State × Reply α}
    (e : conclude g p = .next t) (h : s.takesAtMostOnePid p.1) : s.takesAtMostOnePid t := by
  obtain ⟨r, hr⟩ := conclude_next g p
  cases hr.symm.trans e
  exact h

theorem finish_takesAtMostOnePid {s t u : State} {r : Result} (e : finish u r = .next t)
    (h : s.takesAtMostOnePid u) : s.takesAtMostOnePid t := by
  cases e
  exact h

/-- SEND takes a task id and a packet id, or is refused and takes neither (R160). -/
theorem exec_send_counters {flags : Byte} {user : Bytes} {s t : State} (e : exec (.send flags user) s = .next t) :
    t.counters = s.counters ∨ t.counters = (nextId s.pidCtr, nextId s.tidCtr) := by
  obtain ⟨r, hr⟩ := conclude_next (fun _ => .number s.tidCtr.val)
    (if s.cfg.maxLen.val < 3 + user.length then refuse .send (.lengthError (3 + user.length)) s
     else sendAddTask (sentFlags flags) s.tidCtr user (allocTid s).1)
  cases hr.symm.trans e
  split
  · exact .inl rfl
  · exact .inr (sendAddTask_counters _ _ _ _)

/-- Every instruction but RESET, SEND and ALLOC_TID takes at most one packet id and no task id. -/
theorem exec_takesAtMostOnePid {i : Instr} {s t : State} (hr : i ≠ .reset) (ha : i ≠ .allocTid)
    (hs : ∀ flags user, i ≠ .send flags user) (e : exec i s = .next t) : s.takesAtMostOnePid t := by
  cases i with
  | reset => exact absurd rfl hr
  | allocTid => exact absurd rfl ha
  | send flags user => exact absurd rfl (hs flags user)
  | frame | frameEmpty => exact conclude_takesAtMostOnePid e (handleUnwrapped_takesAtMostOnePid _ _)
  | rspSync | rspAsync | stPending | stInProgress | stResult | stError | stStopped | stAsyncResult | stAsyncError
  | stWaiting | stOverflow | stAlreadyExists | stNotFound | stIllegalValue | dispatch =>
    exact conclude_takesAtMostOnePid e (dispatchPayload_takesAtMostOnePid _ _ _ _)
  | envAck | envAbort | abort | txAck => exact conclude_takesAtMostOnePid e (sendUnstored_takesAtMostOnePid _ _)
  | parseStep => exact conclude_takesAtMostOnePid e (parseOne_takesAtMostOnePid s)
  | envAdd flags tid user =>
    refine conclude_takesAtMostOnePid e ?_
    split
    · exact .inl rfl
    · exact .inr (sendAddTask_counters _ _ _ _)
  | wrapId id payload =>
    refine conclude_takesAtMostOnePid e (.inl ?_)
    split <;> rfl
  | wrapNext payload =>
    refine conclude_takesAtMostOnePid e ?_
    split
    · exact .inl rfl
    · exact .inr rfl
  | allocPid => exact finish_takesAtMostOnePid e (.inr rfl)
  | rxChunk bytes =>
    have happ := ringAppend_counters bytes s
    simp only [exec, execRxChunk] at e
    split at e
    · cases e
    · split at e <;> rename_i heq <;> rw [heq] at happ <;> exact finish_takesAtMostOnePid e (.inl happ)
  | rbAppend bytes => exact conclude_takesAtMostOnePid e (.inl (ringAppend_counters _ _))
  | rbGet i => exact conclude_takesAtMostOnePid e (.inl (ringGet_counters _ _))
  | rbTake n => exact conclude_takesAtMostOnePid e (.inl (ringTake_counters _ _))
  | rbSkip n => exact conclude_takesAtMostOnePid e (.inl (ringSkip_counters _ _))
  | txNeg id => exact conclude_takesAtMostOnePid e (.inl (txWrite_counters _ _))
  | retransmit id => exact conclude_takesAtMostOnePid e (.inl (resend_counters _ _))
  | histTake id => exact finish_takesAtMostOnePid e (.inl (histTake_counters _ _))
  | pendPut tid => exact finish_takesAtMostOnePid e (.inl (pendPut_counters _ _))
  | pendTake key => exact finish_takesAtMostOnePid e (.inl (pendTake_counters _ _))
  | complete key status rest => exact finish_takesAtMostOnePid e (.inl (completeTask_counters _ _ _ _))
  | escStart | escEsc | rbFind | rbSize | rbIsEmpty | crc8 | escByte | escape | unescape | physSpan | unwrap
  | histPut => exact finish_takesAtMostOnePid e (.inl rfl)

/-- What a step does to the counters, when it runs no RESET. -/
theorem step_counters {s t : State} (hr : s.operationRun ≠ some .reset) (e : step s = .next t) :
    s.takesAtMostOnePid t ∨
    (s.operationRun = some .allocTid ∧ t.counters = (s.pidCtr, nextId s.tidCtr)) ∨
    (∃ flags user, s.operationRun = some (.send flags user) ∧ t.counters = (nextId s.pidCtr, nextId s.tidCtr)) := by
  obtain ⟨c, -, rfl⟩ | ⟨-, l, rfl | ⟨i, rest, hi, -, hx⟩ | ⟨-, -, u, hx, rfl⟩⟩ := step_cases e
  · exact .inl (.inl rfl)
  · exact .inl (.inl rfl)
  · by_cases ha : i = .allocTid
    · subst ha
      cases hx
      exact .inr (.inl ⟨hi, rfl⟩)
    by_cases hs : ∃ flags user, i = .send flags user
    · obtain ⟨flags, user, rfl⟩ := hs
      rcases exec_send_counters hx with hsame | hmoved
      · exact .inl (.inl hsame)
      · exact .inr (.inr ⟨flags, user, hi, hmoved⟩)
    · have hop := exec_takesAtMostOnePid (fun h => hr (h ▸ hi)) ha (fun flags user h => hs ⟨flags, user, h⟩) hx
      exact .inl (State.takesAtMostOnePid_of_counters (u := (s.setSched l).setCmds rest) rfl hop)
  · have hturn := exec_takesAtMostOnePid (by simp) (by simp) (by simp) hx
    have hu : s.takesAtMostOnePid u := State.takesAtMostOnePid_of_counters (u := s.setSched l) rfl hturn
    unfold afterTurn
    split <;> exact .inl hu

/-- Settles O57: read off `step_counters`. -/
theorem countersMoveByOne : Obligations.CountersMoveByOne := by
  unfold Obligations.CountersMoveByOne
  intro s t hr e
  rcases step_counters hr e with (h | h) | ⟨hop, h⟩ | ⟨flags, user, hop, h⟩ <;> obtain ⟨hpid, htid⟩ := Prod.ext_iff.1 h
  · exact ⟨.inl hpid, .inl htid⟩
  · exact ⟨.inr (congrArg Fin.val hpid), .inl htid⟩
  · exact ⟨.inl hpid, .inr ⟨congrArg Fin.val htid, .inl hop⟩⟩
  · exact ⟨.inr (congrArg Fin.val hpid), .inr ⟨congrArg Fin.val htid, .inr ⟨flags, user, hop⟩⟩⟩

end Sys2Proof.Machine
end

section
/-! The values of R35 after RESET. -/

namespace Sys2Proof.Machine

theorem State.fresh_pendAt (c : Params) (k : Nat) : (State.fresh c).pendAt k = false := by
  simp only [State.pendAt, State.fresh, Vector.getElem?_replicate]
  split <;> rfl

/-- Settles O1: RESET leaves `State.fresh` of its binding, and `State.reset` is one. -/
theorem resetRestoresEveryResetValue : Obligations.ResetRestoresEveryResetValue := by
  unfold Obligations.ResetRestoresEveryResetValue
  refine ⟨fun s => ⟨_, rfl, rfl, rfl, rfl, ?_, ?_, rfl, rfl, rfl, rfl, rfl, rfl, rfl⟩, rfl, rfl, rfl, ?_, ?_, rfl, rfl,
    rfl, rfl, rfl, rfl⟩
  · exact State.fresh_histAt s.cfg
  · exact State.fresh_pendAt s.cfg
  · exact State.fresh_histAt _
  · exact State.fresh_pendAt _

end Sys2Proof.Machine
end

section
/-! SUPPORT. Two states in lockstep: when two states agree on all that operations read, and every primitive update keeps
them related, every step answers alike on both and leaves related states. -/

open Sys2Proof.Claims

namespace Sys2Proof.Machine

/-- Two states agree on all that operations read: not `FAULTS`, not the logs, and of the ring buffer its logical view. -/
structure SameReadings (s s' : State) : Prop where
  cfg : s.cfg = s'.cfg
  pidCtr : s.pidCtr = s'.pidCtr
  tidCtr : s.tidCtr = s'.tidCtr
  hist : s.hist = s'.hist
  pend : s.pend = s'.pend
  rb : s.rb = s'.rb
  ret : s.ret = s'.ret
  rxBusy : s.rxBusy = s'.rxBusy
  cmds : s.cmds = s'.cmds
  sched : s.sched = s'.sched
  link : s.link = s'.link

section
variable {s s' : State}

theorem SameReadings.rbSize (r : SameReadings s s') : s.rbSize = s'.rbSize := by
  rw [← State.rb_length, r.rb, State.rb_length]

theorem SameReadings.histAt (r : SameReadings s s') (k : Nat) : s.histAt k = s'.histAt k := by
  simp only [State.histAt, r.hist]

theorem SameReadings.pendAt (r : SameReadings s s') (k : Nat) : s.pendAt k = s'.pendAt k := by
  simp only [State.pendAt, r.pend]

theorem SameReadings.writable (r : SameReadings s s') : s.writable ↔ s'.writable := by
  simp only [State.writable, r.link]

theorem SameReadings.ringFind (r : SameReadings s s') (b : Byte) (start : Nat) :
    ringFind b start s = ringFind b start s' := by
  simp only [Machine.ringFind, r.rb]

theorem SameReadings.nextAgent (r : SameReadings s s') : nextAgent s = nextAgent s' := by
  simp only [Machine.nextAgent, r.sched, r.rxBusy, r.cmds]

theorem SameReadings.hostWaits (r : SameReadings s s') : hostWaits s = hostWaits s' := by
  simp only [Machine.hostWaits, r.rxBusy, r.cmds]

end

/-- A relation of states that agree on their readings, which every primitive update and RESET keep. -/
structure Lockstep (R : State → State → Prop) : Prop where
  reads : ∀ {s s'}, R s s' → SameReadings s s'
  emit : ∀ {s s'} e, R s s' → R (s.emit e) (s'.emit e)
  ret : ∀ {s s'} r, R s s' → R (s.setRet r) (s'.setRet r)
  flags : ∀ {s s'} m, R s s' → R (s.setFlags m) (s'.setFlags m)
  link : ∀ {s s'}, R s s' → R s.dropLink s'.dropLink
  tx : ∀ {s s'} f, R s s' → R (s.pushTx f) (s'.pushTx f)
  busy : ∀ {s s'} b, R s s' → R (s.setBusy b) (s'.setBusy b)
  sched : ∀ {s s'} l, R s s' → R (s.setSched l) (s'.setSched l)
  cmds : ∀ {s s'} l, R s s' → R (s.setCmds l) (s'.setCmds l)
  pid : ∀ {s s'}, R s s' → R (allocPid s).1 (allocPid s').1
  tid : ∀ {s s'}, R s s' → R (allocTid s).1 (allocTid s').1
  hist : ∀ {s s'} k e, R s s' → R (s.setHist k e) (s'.setHist k e)
  pend : ∀ {s s'} k b, R s s' → R (s.setPend k b) (s'.setPend k b)
  drop : ∀ {s s'} n, n ≤ s.rbSize → R s s' → R (s.dropHead n) (s'.dropHead n)
  push : ∀ {s s'} bs, s.cfg.capFits (s.rbSize + bs.length) = true → R s s' → R (s.pushTail bs) (s'.pushTail bs)
  reset : ∀ {s s'}, s.cfg.Valid → R s s' → sameOutcome R (execReset s) (execReset s')

/-- The same answer, and related states. -/
def sameAnswer {α : Type} (R : State → State → Prop) (p p' : State × Reply α) : Prop := R p.1 p'.1 ∧ p.2 = p'.2

namespace Lockstep

variable {R : State → State → Prop} {s s' : State}

/-! ### Operations -/

theorem takeFault (l : Lockstep R) (f : FaultInfo) (h : R s s') : R (s.takeFault f) (s'.takeFault f) :=
  l.emit _ (l.flags _ h)

theorem raise (l : Lockstep R) {α : Type} (f : FaultInfo) (h : R s s') :
    sameAnswer (α := α) R (raise f s) (raise f s') :=
  ⟨l.takeFault f h, rfl⟩

theorem refuse (l : Lockstep R) {α : Type} (op : RefusedOp) (r : RefuseReason) (h : R s s') :
    sameAnswer (α := α) R (refuse op r s) (refuse op r s') :=
  ⟨l.emit _ h, rfl⟩

theorem txWrite (l : Lockstep R) (f : Bytes) (h : R s s') : sameAnswer R (txWrite f s) (txWrite f s') := by
  unfold Machine.txWrite
  rw [(l.reads h).link]
  split
  · exact l.raise _ (l.link h)
  · exact ⟨l.tx f (l.link h), rfl⟩

/-- The envelope may depend on the binding, which the two states share. -/
theorem sendUnstored (l : Lockstep R) (env : Params → Bytes) (h : R s s') :
    sameAnswer R (sendUnstored (env s.cfg) s) (sendUnstored (env s'.cfg) s') := by
  unfold Machine.sendUnstored
  rw [(l.reads h).cfg, (l.reads h).pidCtr]
  split
  · exact l.refuse _ _ h
  · exact l.txWrite _ (l.pid h)

theorem pendPut (l : Lockstep R) (tid : IssuedId) (h : R s s') : R (pendPut tid s) (pendPut tid s') := by
  unfold Machine.pendPut
  rw [(l.reads h).pendAt]
  split
  · exact l.pend _ _ (l.flags _ h)
  · exact l.pend _ _ h

theorem sendAddTask (l : Lockstep R) (flags : BitVec 3) (tid : IssuedId) (user : Bytes) (h : R s s') :
    sameAnswer R (sendAddTask flags tid user s) (sendAddTask flags tid user s') := by
  unfold Machine.sendAddTask
  rw [(l.reads h).cfg, (l.reads h).pidCtr]
  exact l.txWrite _ (l.pendPut tid (l.hist _ _ (l.pid h)))

theorem histTake (l : Lockstep R) (id : Byte) (h : R s s') :
    R (histTake id s).1 (histTake id s').1 ∧ (histTake id s).2 = (histTake id s').2 := by
  unfold Machine.histTake
  rw [(l.reads h).histAt]
  split
  · exact ⟨h, rfl⟩
  · exact ⟨l.hist _ _ h, rfl⟩

theorem pendTake (l : Lockstep R) (key : Byte) (h : R s s') :
    R (pendTake key s).1 (pendTake key s').1 ∧ (pendTake key s).2 = (pendTake key s').2 := by
  unfold Machine.pendTake
  rw [(l.reads h).pendAt]
  split
  · exact ⟨l.pend _ _ h, rfl⟩
  · exact ⟨h, rfl⟩

theorem resend (l : Lockstep R) (id : Byte) (h : R s s') : sameAnswer R (resend id s) (resend id s') := by
  cases hf : s.histAt id.toNat with
  | none =>
    have hf' := (l.reads h).histAt id.toNat ▸ hf
    rw [resend_unknown hf, resend_unknown hf']
    exact ⟨l.emit _ h, rfl⟩
  | some f =>
    have hf' := (l.reads h).histAt id.toNat ▸ hf
    have hsent := l.link (l.hist id.toNat none h)
    by_cases hw : s.writable
    · rw [resend_taken hf hw, resend_taken hf' ((l.reads h).writable.1 hw)]
      exact ⟨l.emit _ (l.tx f hsent), rfl⟩
    · rw [resend_failed hf hw, resend_failed hf' (mt (l.reads h).writable.2 hw)]
      exact ⟨l.takeFault _ hsent, rfl⟩

theorem completeTask (l : Lockstep R) (key status : Byte) (rest : Bytes) (h : R s s') :
    R (completeTask key status rest s) (completeTask key status rest s') := by
  have hp' := (l.reads h).pendAt key.toNat
  cases hp : s.pendAt key.toNat with
  | true =>
    rw [completeTask_pending hp, completeTask_pending (hp' ▸ hp)]
    exact l.emit _ (l.pend _ _ h)
  | false =>
    rw [completeTask_unmatched hp, completeTask_unmatched (hp' ▸ hp)]
    exact l.emit _ h

theorem routeStatus (l : Lockstep R) (key status : Byte) (rest : Bytes) (h : R s s') :
    R (routeStatus key status rest s) (routeStatus key status rest s') := by
  unfold Machine.routeStatus
  rw [(l.reads h).cfg]
  split
  · exact l.completeTask _ _ _ h
  · split <;> exact l.emit _ h

/-- The status may be one the binding names, which the two states share. -/
theorem dispatchPayload (l : Lockstep R) (id : Byte) (status : Params → Byte) (tail : Bytes) (h : R s s') :
    sameAnswer R (dispatchPayload id (status s.cfg) tail s) (dispatchPayload id (status s'.cfg) tail s') := by
  unfold Machine.dispatchPayload
  rw [(l.reads h).cfg]
  split
  · exact ⟨l.emit _ h, rfl⟩
  · rename_i key rest _
    have hroute := l.routeStatus key (status s'.cfg) rest h
    obtain ⟨hs, ha⟩ := l.sendUnstored (fun c => ackEnvelope c key) hroute
    dsimp only [sendAck]
    split
    · generalize Machine.sendUnstored _ _ = p at hs ha ⊢
      generalize Machine.sendUnstored _ _ = p' at hs ha ⊢
      obtain ⟨t, a⟩ := p
      obtain ⟨t', a'⟩ := p'
      obtain rfl : a = a' := ha
      cases a <;> exact ⟨hs, rfl⟩
    · exact ⟨hroute, rfl⟩

theorem thenContinue {p p' : State × Reply Unit} (h : sameAnswer R p p') :
    sameAnswer R (thenContinue p) (thenContinue p') := by
  obtain ⟨t, a⟩ := p
  obtain ⟨t', a'⟩ := p'
  obtain ⟨hs, rfl⟩ : R t t' ∧ a = a' := h
  cases a <;> exact ⟨hs, rfl⟩

theorem sendNegative (l : Lockstep R) (id : Byte) (h : R s s') :
    sameAnswer R (sendNegative id s) (sendNegative id s') := by
  unfold Machine.sendNegative
  rw [(l.reads h).cfg]
  exact l.txWrite _ h

theorem handleUnwrapped (l : Lockstep R) (u : Unwrapped) (h : R s s') :
    sameAnswer R (handleUnwrapped u s) (handleUnwrapped u s') := by
  cases u with
  | crcMismatch id => exact thenContinue (l.sendNegative id (l.emit _ h))
  | badEscape id => exact thenContinue (l.sendNegative id (l.emit _ h))
  | ok id payload =>
    cases payload with
    | nil => exact thenContinue (l.resend id h)
    | cons status tail => exact l.dispatchPayload id (fun _ => status) tail h

theorem parseCandidate (l : Lockstep R) (h : R s s') : sameAnswer R (parseCandidate s) (parseCandidate s') := by
  have r := l.reads h
  unfold Machine.parseCandidate
  rw [← r.rbSize, ← r.rb, ← r.cfg]
  split
  · exact ⟨h, rfl⟩
  · dsimp only
    split
    · exact ⟨l.emit _ (l.drop 1 (by omega) h), rfl⟩
    · split
      · exact ⟨h, rfl⟩
      · rename_i n hn
        have hle : n ≤ s.rbSize := by simpa using (physSpan_le hn).2
        exact l.handleUnwrapped _ (l.drop n hle h)

theorem parseOne (l : Lockstep R) (h : R s s') : sameAnswer R (parseOne s) (parseOne s') := by
  have r := l.reads h
  unfold Machine.parseOne
  rw [← r.rbSize, ← r.cfg, ← r.ringFind]
  split
  · exact ⟨h, rfl⟩
  · split
    · exact ⟨l.emit _ (l.drop _ (Nat.le_refl _) h), rfl⟩
    · rename_i k hk
      split
      · exact l.parseCandidate h
      · exact l.parseCandidate (l.emit _ (l.drop k (Nat.le_of_lt (ringFind_some hk).2.1) h))

theorem ringAppend (l : Lockstep R) (bs : Bytes) (h : R s s') : sameAnswer R (ringAppend bs s) (ringAppend bs s') := by
  unfold Machine.ringAppend
  rw [← (l.reads h).rbSize, ← (l.reads h).cfg]
  split
  · exact ⟨l.push bs ‹_› h, rfl⟩
  · exact l.raise _ h

theorem ringGet (l : Lockstep R) (i : Nat) (h : R s s') : sameAnswer R (ringGet i s) (ringGet i s') := by
  have r := l.reads h
  by_cases hi : i < s.rbSize
  · have hi' : i < s'.rbSize := r.rbSize ▸ hi
    have hread : s.rb[i]? = s'.rb[i]? := by rw [r.rb]
    rw [State.rb_getElem?, State.rb_getElem?, if_pos hi, if_pos hi'] at hread
    rw [ringGet_inside hi, ringGet_inside hi']
    exact ⟨h, congrArg Reply.ok (Option.some.inj hread)⟩
  · rw [ringGet_outside (Nat.not_lt.1 hi), ringGet_outside (r.rbSize ▸ Nat.not_lt.1 hi), r.rbSize]
    exact l.raise _ h

theorem ringTake (l : Lockstep R) (n : Nat) (h : R s s') : sameAnswer R (ringTake n s) (ringTake n s') := by
  unfold Machine.ringTake
  rw [← (l.reads h).rbSize, ← (l.reads h).rb]
  split
  · exact ⟨l.drop n ‹_› h, rfl⟩
  · exact l.raise _ h

theorem ringSkip (l : Lockstep R) (n : Nat) (h : R s s') : sameAnswer R (ringSkip n s) (ringSkip n s') := by
  unfold Machine.ringSkip
  rw [← (l.reads h).rbSize]
  split
  · exact ⟨l.drop n ‹_› h, rfl⟩
  · exact l.raise _ h

/-! ### Instructions -/

theorem conclude (l : Lockstep R) {α : Type} {g g' : α → Result} {p p' : State × Reply α} (hg : g = g')
    (h : sameAnswer R p p') : sameOutcome R (conclude g p) (conclude g' p') := by
  obtain ⟨t, a⟩ := p
  obtain ⟨t', a'⟩ := p'
  obtain ⟨hs, rfl⟩ : R t t' ∧ a = a' := h
  subst hg
  cases a <;> exact l.ret _ hs

theorem finish (l : Lockstep R) {r r' : Result} (hr : r = r') (h : R s s') :
    sameOutcome R (finish s r) (finish s' r') := by
  subst hr
  exact l.ret r h

theorem execRxChunk (l : Lockstep R) (bytes : Bytes) (h : R s s') :
    sameOutcome R (execRxChunk bytes s) (execRxChunk bytes s') := by
  unfold Machine.execRxChunk
  rw [(l.reads h).rxBusy]
  split
  · rfl
  · obtain ⟨hs, ha⟩ := l.ringAppend bytes h
    generalize Machine.ringAppend bytes s = p at hs ha ⊢
    generalize Machine.ringAppend bytes s' = p' at hs ha ⊢
    obtain ⟨t, a⟩ := p
    obtain ⟨t', a'⟩ := p'
    obtain rfl : a = a' := ha
    cases a with
    | ok => exact l.finish rfl (l.busy true hs)
    | fault f => exact l.finish rfl hs
    | refused r => exact l.finish rfl hs

/-- Every instruction answers alike on related states. -/
theorem exec (l : Lockstep R) (i : Instr) (hv : s.cfg.Valid) (h : R s s') :
    sameOutcome R (exec i s) (exec i s') := by
  have r := l.reads h
  cases i with
  | frame id payload crc => exact l.conclude rfl (l.handleUnwrapped _ h)
  | frameEmpty id crc => exact l.conclude rfl (l.handleUnwrapped _ h)
  | escStart => exact l.finish (by rw [r.cfg]) h
  | escEsc => exact l.finish (by rw [r.cfg]) h
  | envAdd flags tid user =>
    refine l.conclude rfl ?_
    rw [r.cfg]
    split
    · exact l.refuse _ _ h
    · exact l.sendAddTask flags tid user h
  | envAck key => exact l.conclude rfl (l.sendUnstored (fun c => ackEnvelope c key) h)
  | envAbort => exact l.conclude rfl (l.sendUnstored abortEnvelope h)
  | rspSync id status rest => exact l.conclude rfl (l.dispatchPayload id (fun _ => status) rest h)
  | rspAsync id status tid rest => exact l.conclude rfl (l.dispatchPayload id (fun _ => status) (tid :: rest) h)
  | stPending id tail => exact l.conclude rfl (l.dispatchPayload id Params.stPending tail h)
  | stInProgress id tail => exact l.conclude rfl (l.dispatchPayload id Params.stInProgress tail h)
  | stResult id tail => exact l.conclude rfl (l.dispatchPayload id Params.stResult tail h)
  | stError id tail => exact l.conclude rfl (l.dispatchPayload id Params.stError tail h)
  | stStopped id tail => exact l.conclude rfl (l.dispatchPayload id Params.stStopped tail h)
  | stAsyncResult id tail => exact l.conclude rfl (l.dispatchPayload id Params.stAsyncResult tail h)
  | stAsyncError id tail => exact l.conclude rfl (l.dispatchPayload id Params.stAsyncError tail h)
  | stWaiting id tail => exact l.conclude rfl (l.dispatchPayload id Params.stWaiting tail h)
  | stOverflow id tail => exact l.conclude rfl (l.dispatchPayload id Params.stOverflow tail h)
  | stAlreadyExists id tail => exact l.conclude rfl (l.dispatchPayload id Params.stAlreadyExists tail h)
  | stNotFound id tail => exact l.conclude rfl (l.dispatchPayload id Params.stNotFound tail h)
  | stIllegalValue id tail => exact l.conclude rfl (l.dispatchPayload id Params.stIllegalValue tail h)
  | send flags user =>
    refine l.conclude (by rw [r.tidCtr]) ?_
    rw [r.cfg, r.tidCtr]
    split
    · exact l.refuse _ _ h
    · exact l.sendAddTask _ _ user (l.tid h)
  | abort => exact l.conclude rfl (l.sendUnstored abortEnvelope h)
  | rxChunk bytes => exact l.execRxChunk bytes h
  | reset => exact l.reset hv h
  | rbAppend bytes => exact l.conclude rfl (l.ringAppend bytes h)
  | rbGet k => exact l.conclude rfl (l.ringGet k h)
  | rbTake n => exact l.conclude rfl (l.ringTake n h)
  | rbSkip n => exact l.conclude rfl (l.ringSkip n h)
  | rbFind b start => exact l.finish (by rw [r.ringFind]) h
  | rbSize => exact l.finish (by rw [r.rbSize]) h
  | rbIsEmpty => exact l.finish (by rw [r.rbSize]) h
  | crc8 id data => exact l.finish rfl h
  | escByte b => exact l.finish (by rw [r.cfg]) h
  | escape str => exact l.finish (by rw [r.cfg]) h
  | unescape p => exact l.finish (by rw [r.cfg]) h
  | physSpan buf len => exact l.finish (by rw [r.cfg]) h
  | wrapId id payload =>
    refine l.conclude rfl ?_
    rw [r.cfg]
    split
    · exact l.refuse _ _ h
    · exact ⟨h, rfl⟩
  | wrapNext payload =>
    refine l.conclude rfl ?_
    rw [r.cfg, r.pidCtr]
    split
    · exact l.refuse _ _ h
    · exact ⟨l.pid h, rfl⟩
  | unwrap f => exact l.finish (by rw [r.cfg]) h
  | allocPid => exact l.finish (congrArg (fun k : IssuedId => Result.number k.val) r.pidCtr) (l.pid h)
  | allocTid => exact l.finish (congrArg (fun k : IssuedId => Result.number k.val) r.tidCtr) (l.tid h)
  | histPut pid f => exact l.finish rfl (l.hist _ _ h)
  | histTake id => exact l.finish (congrArg Result.frame (l.histTake id h).2) (l.histTake id h).1
  | pendPut tid => exact l.finish rfl (l.pendPut tid h)
  | pendTake key => exact l.finish (congrArg Result.flag (l.pendTake key h).2) (l.pendTake key h).1
  | txNeg id => exact l.conclude rfl (l.sendNegative id h)
  | txAck key => exact l.conclude rfl (l.sendUnstored (fun c => ackEnvelope c key) h)
  | retransmit id => exact l.conclude rfl (l.resend id h)
  | parseStep => exact l.conclude rfl (l.parseOne h)
  | dispatch id status tail => exact l.conclude rfl (l.dispatchPayload id (fun _ => status) tail h)
  | complete key status rest => exact l.finish rfl (l.completeTask key status rest h)

/-! ### Steps -/

theorem runOldest (l : Lockstep R) (a : Agent) (hv : s.cfg.Valid) (h : R s s') :
    sameOutcome R (runOldest a s) (runOldest a s') := by
  unfold Machine.runOldest
  rw [(l.reads h).cmds]
  split
  · exact h
  · exact l.exec _ hv (l.cmds _ h)

theorem afterTurn (l : Lockstep R) (h : R s s') : R (afterTurn s) (afterTurn s') := by
  unfold Machine.afterTurn
  rw [(l.reads h).ret]
  split
  · exact h
  · exact l.busy false h

theorem receiverMove (l : Lockstep R) (hv : s.cfg.Valid) (h : R s s') :
    sameOutcome R (receiverMove s) (receiverMove s') := by
  have hbusy := (l.reads h).rxBusy
  cases hb : s.rxBusy with
  | true =>
    have hturn := l.exec .parseStep hv h
    obtain ⟨u, hu, hm⟩ := receiverMove_busy hb
    obtain ⟨u', hu', hm'⟩ := receiverMove_busy (hbusy ▸ hb)
    rw [hu, hu'] at hturn
    rw [hm, hm']
    exact l.afterTurn hturn
  | false =>
    rw [receiverMove_free hb, receiverMove_free (hbusy ▸ hb)]
    exact l.runOldest _ hv h

theorem hostMove (l : Lockstep R) (hv : s.cfg.Valid) (h : R s s') :
    sameOutcome R (hostMove s) (hostMove s') := by
  unfold Machine.hostMove
  rw [(l.reads h).hostWaits]
  split
  · exact l.receiverMove hv h
  · exact l.runOldest _ hv h

theorem move (l : Lockstep R) (hv : s.cfg.Valid) (h : R s s') : sameOutcome R (move s) (move s') := by
  unfold Machine.move
  rw [(l.reads h).nextAgent]
  split
  · exact l.hostMove hv (l.sched _ h)
  · exact l.receiverMove hv (l.sched _ h)

theorem refuseInstance (l : Lockstep R) (k : Constraint) (h : R s s') :
    sameOutcome R (refuseInstance k s) (refuseInstance k s') := by
  unfold Machine.refuseInstance
  rw [(l.reads h).ret]
  split
  · rfl
  · exact l.conclude rfl (l.refuse _ _ h)

/-- Related states step alike. -/
theorem step (l : Lockstep R) (h : R s s') : sameOutcome R (step s) (step s') := by
  have hcfg := (l.reads h).cfg
  cases hv : s.cfg.violation with
  | some k =>
    rw [step_invalid hv, step_invalid (hcfg ▸ hv)]
    exact l.refuseInstance k h
  | none =>
    rw [step_valid hv, step_valid (hcfg ▸ hv)]
    exact l.move hv h

end Lockstep

end Sys2Proof.Machine
end

section
/-! SUPPORT. The two relations kept in lockstep: states that differ in what no operation reads (10_state.md R25, R33),
and states that differ in the physical layout of the ring buffer (R29). -/

open Sys2Proof.Claims

namespace Sys2Proof.Machine

/-- What the operations read is the logical view of the ring buffer, and nothing that `unread` takes away. -/
theorem sameReadings_of {s s' : State} (h : unread (unlaid s) = unread (unlaid s')) (hrb : s.rb = s'.rb) :
    SameReadings s s' := by
  have same {α : Type} (f : State → α) : f (unread (unlaid s)) = f (unread (unlaid s')) := congrArg f h
  exact ⟨same State.cfg, same State.pidCtr, same State.tidCtr, same State.hist, same State.pend, hrb, same State.ret,
    same State.rxBusy, same State.cmds, same State.sched, same State.link⟩

/-! ### FAULTS and the logs -/

theorem unread_dropHead (s : State) (n : Nat) : unread (s.dropHead n) = (unread s).dropHead n := by
  show unread (s.dropHead n) = if s.rbHead + n = s.rbTail then _ else _
  unfold State.dropHead
  split <;> rfl

theorem unread_makeRoom (s : State) (n : Nat) : unread (s.makeRoom n) = (unread s).makeRoom n := by
  show unread (s.makeRoom n) = if n ≤ s.rbCap - s.rbTail then _ else if n ≤ s.rbCap - s.rbSize then _ else _
  unfold State.makeRoom
  split
  · rfl
  · split <;> rfl

theorem unread_pushTail (s : State) (bs : Bytes) : unread (s.pushTail bs) = (unread s).pushTail bs := by
  unfold State.pushTail
  split
  · rfl
  · rw [← unread_makeRoom]
    rfl

theorem lockstep_unread : Lockstep fun s s' => unread s = unread s' where
  reads h := sameReadings_of (congrArg unlaid h :) (congrArg State.rb h :)
  emit _ h := h
  flags _ h := h
  tx _ h := h
  ret r h := congrArg (State.setRet · r) h
  link h := congrArg State.dropLink h
  busy b h := congrArg (State.setBusy · b) h
  sched l h := congrArg (State.setSched · l) h
  cmds l h := congrArg (State.setCmds · l) h
  pid h := congrArg (fun u => (allocPid u).1) h
  tid h := congrArg (fun u => (allocTid u).1) h
  hist k e h := congrArg (State.setHist · k e) h
  pend k b h := congrArg (State.setPend · k b) h
  drop n _ h := by rw [unread_dropHead, unread_dropHead, h]
  push bs _ h := by rw [unread_pushTail, unread_pushTail, h]
  reset {s s'} _ h := by
    have hsame : execReset s = execReset s' := (congrArg execReset h :)
    rw [hsame]
    rfl

/-- Settles O55: what `unread` takes away is nothing an operation reads. -/
theorem flagsAndLogsAreNeverRead : Obligations.FlagsAndLogsAreNeverRead := by
  unfold Obligations.FlagsAndLogsAreNeverRead
  intro s s' h
  exact lockstep_unread.step h

/-! ### The physical layout -/

theorem unlaid_of_ringOnly {s t : State} (h : s.ringOnly t) : unlaid t = unlaid s := by
  rw [h]
  rfl

theorem lockstep_sameView : Lockstep sameView where
  reads := fun ⟨h, hrb, _, _⟩ => sameReadings_of (congrArg unread h) hrb
  emit e h := ⟨congrArg (State.emit · e) h.1, h.2⟩
  flags m h := ⟨congrArg (State.setFlags · m) h.1, h.2⟩
  tx f h := ⟨congrArg (State.pushTx · f) h.1, h.2⟩
  ret r h := ⟨congrArg (State.setRet · r) h.1, h.2⟩
  link h := ⟨congrArg State.dropLink h.1, h.2⟩
  busy b h := ⟨congrArg (State.setBusy · b) h.1, h.2⟩
  sched l h := ⟨congrArg (State.setSched · l) h.1, h.2⟩
  cmds l h := ⟨congrArg (State.setCmds · l) h.1, h.2⟩
  pid h := ⟨congrArg (fun u => (allocPid u).1) h.1, h.2⟩
  tid h := ⟨congrArg (fun u => (allocTid u).1) h.1, h.2⟩
  hist k e h := ⟨congrArg (State.setHist · k e) h.1, h.2⟩
  pend k b h := ⟨congrArg (State.setPend · k b) h.1, h.2⟩
  drop {s s'} n hn := by
    rintro ⟨h, hrb, hc, hc'⟩
    have hn' : n ≤ s'.rbSize := by rwa [← State.rb_length, ← hrb, State.rb_length]
    refine ⟨?_, ?_, s.dropHead_cursorsOk hc hn, s'.dropHead_cursorsOk hc' hn'⟩
    · rw [unlaid_of_ringOnly (s.dropHead_ringOnly n), unlaid_of_ringOnly (s'.dropHead_ringOnly n), h]
    · rw [s.dropHead_rb hn, s'.dropHead_rb hn', hrb]
  push {s s'} bs fit := by
    rintro ⟨h, hrb, hc, hc'⟩
    have hcfg : s.cfg = s'.cfg := (congrArg State.cfg h :)
    have fit' : s'.cfg.capFits (s'.rbSize + bs.length) = true := by
      rwa [← State.rb_length, ← hrb, State.rb_length, ← hcfg]
    refine ⟨?_, ?_, s.pushTail_cursorsOk bs hc fit, s'.pushTail_cursorsOk bs hc' fit'⟩
    · rw [unlaid_of_ringOnly (s.pushTail_ringOnly bs), unlaid_of_ringOnly (s'.pushTail_ringOnly bs), h]
    · rw [s.pushTail_rb bs hc.1, s'.pushTail_rb bs hc'.1, hrb]
  reset {s s'} hv h := by
    have hsame : execReset s' = execReset s := (congrArg execReset h.1.symm :)
    have hcur : (State.fresh s.cfg).cursorsOk := State.fresh_cursorsOk (capFits_init_of_valid hv)
    rw [hsame]
    exact ⟨rfl, rfl, hcur, hcur⟩

/-- Settles O56: operations read the logical view alone, and change it alike on every layout. -/
theorem physicalLayoutIsUnobservable : Obligations.PhysicalLayoutIsUnobservable := by
  unfold Obligations.PhysicalLayoutIsUnobservable
  intro s s' h
  exact lockstep_sameView.step h

end Sys2Proof.Machine
end

section
/-! SUPPORT. RX_CHUNKs do not overlap (20_memory.md R64): no move begins one while another is in progress. -/

namespace Sys2Proof.Machine

/-- Running the oldest operation never overlaps two RX_CHUNKs, when a receiver that runs it has none in progress. -/
theorem runOldest_ne_overlap {a : Agent} {s : State} (h : a = .receiver → s.rxBusy = false) :
    runOldest a s ≠ .fault .overlappingRxChunk := by
  unfold runOldest
  split
  · nofun
  · rename_i i rest hc
    rcases exec_next_or_overlap i (s.setCmds rest) with ⟨t, ht⟩ | ⟨-, hb, bytes, rfl⟩
    · simp [ht]
    · have hreceiver : Agent.receiver = a := (oldestOf_some hc).1
      have hfree : s.rxBusy = false := h hreceiver.symm
      simp [hfree] at hb

theorem receiverMove_ne_overlap (s : State) : receiverMove s ≠ .fault .overlappingRxChunk := by
  cases hb : s.rxBusy with
  | true =>
    obtain ⟨u, -, hm⟩ := receiverMove_busy hb
    simp [hm]
  | false =>
    rw [receiverMove_free hb]
    exact runOldest_ne_overlap fun _ => hb

theorem hostMove_ne_overlap (s : State) : hostMove s ≠ .fault .overlappingRxChunk := by
  cases hw : hostWaits s with
  | true =>
    rw [hostMove_waits hw]
    exact receiverMove_ne_overlap s
  | false =>
    rw [hostMove_runs hw]
    exact runOldest_ne_overlap nofun

theorem refuseInstance_ne_fault (k : Constraint) (s : State) (f : Fault) : refuseInstance k s ≠ .fault f := by
  by_cases hr : s.ret = .refused (.badParameters k)
  · simp [refuseInstance_told hr]
  · simp [refuseInstance_untold hr]

/-- Settles O33: only the receiver's own move begins an RX_CHUNK, and it begins none while one is in progress. -/
theorem overlappingChunksHaveNoMove : Obligations.OverlappingChunksHaveNoMove := by
  unfold Obligations.OverlappingChunksHaveNoMove
  refine ⟨fun s bytes hb => by simp [exec, execRxChunk, hb], fun s => ?_⟩
  unfold step
  split
  · exact refuseInstance_ne_fault _ s _
  · unfold move
    split
    · exact hostMove_ne_overlap _
    · exact receiverMove_ne_overlap _

end Sys2Proof.Machine
end

section
/-! SUPPORT. The gist of a state: all that PARSE_STEPs read and change but the bytes of the ring buffer, the GARBAGE
events gathered into one. Handling a received frame does to the gist what it does to the state (43_receive_path.md R187
to R196). -/

open Sys2Proof.Claims

namespace Sys2Proof.Machine

/-! ### The two parts of an event log -/

@[simp] theorem otherEvents_append (l l' : List Event) : otherEvents (l ++ l') = otherEvents l ++ otherEvents l' :=
  List.filter_append ..

@[simp] theorem garbageTotal_append (l l' : List Event) : garbageTotal (l ++ l') = garbageTotal l + garbageTotal l' := by
  simp [garbageTotal]

@[simp] theorem otherEvents_garbage_cons (n : Nat) (l : List Event) : otherEvents (.garbage n :: l) = otherEvents l := rfl

@[simp] theorem garbageTotal_garbage_cons (n : Nat) (l : List Event) :
    garbageTotal (.garbage n :: l) = n + garbageTotal l := by
  simp [garbageTotal]

@[simp] theorem otherEvents_nil : otherEvents [] = [] := rfl
@[simp] theorem garbageTotal_nil : garbageTotal [] = 0 := rfl

@[simp] theorem otherEvents_otherEvents (l : List Event) : otherEvents (otherEvents l) = otherEvents l := by
  simp [otherEvents]

@[simp] theorem garbageTotal_otherEvents (l : List Event) : garbageTotal (otherEvents l) = 0 := by
  simp only [garbageTotal, otherEvents, List.sum_eq_zero_iff, List.forall_mem_map, List.mem_filter]
  intro e he
  cases e with
  | garbage n => simp at he
  | _ => rfl

/-! ### The gist of a state -/

/-- What a PARSE_STEP reads and changes of a state, apart from the bytes of the ring buffer: no layout, no return port,
no mark of the RX_CHUNK in progress, and all the GARBAGE logged put into one first event. -/
def State.gist (s : State) : State :=
  { unlaid s with ret := .none, rxBusy := false, ev := .garbage (garbageTotal s.ev) :: otherEvents s.ev }

/-- The gist after `n` more bytes were discarded as GARBAGE. -/
def State.discard (s : State) (n : Nat) : State := (s.emit (.garbage n)).gist

@[simp] theorem State.gist_cfg (s : State) : s.gist.cfg = s.cfg := rfl
@[simp] theorem State.gist_link (s : State) : s.gist.link = s.link := rfl
@[simp] theorem State.discard_cfg (s : State) (n : Nat) : (s.discard n).cfg = s.cfg := rfl
@[simp] theorem State.discard_link (s : State) (n : Nat) : (s.discard n).link = s.link := rfl
@[simp] theorem State.gist_setRet (s : State) (r : Result) : (s.setRet r).gist = s.gist := rfl
@[simp] theorem State.gist_setBusy (s : State) (b : Bool) : (s.setBusy b).gist = s.gist := rfl

theorem State.gist_of_ringOnly {s t : State} (h : s.ringOnly t) : t.gist = s.gist := by
  rw [h]
  rfl

@[simp] theorem State.gist_dropHead (s : State) (n : Nat) : (s.dropHead n).gist = s.gist :=
  State.gist_of_ringOnly (s.dropHead_ringOnly n)

@[simp] theorem State.gist_pushTail (s : State) (bs : Bytes) : (s.pushTail bs).gist = s.gist :=
  State.gist_of_ringOnly (s.pushTail_ringOnly bs)

theorem State.gist_emit_garbage (s : State) (n : Nat) : (s.emit (.garbage n)).gist = s.gist.discard n := by
  simp [State.discard, State.gist, State.emit, unlaid, State.setRing]

/-- An event that is no GARBAGE stays as it is. -/
theorem State.gist_emit (s : State) {e : Event} (h : ∀ n, e ≠ .garbage n) : (s.emit e).gist = s.gist.emit e := by
  have hother : otherEvents [e] = [e] ∧ garbageTotal [e] = 0 := by
    cases e with
    | garbage n => exact absurd rfl (h n)
    | _ => exact ⟨rfl, rfl⟩
  simp [State.gist, State.emit, unlaid, State.setRing, hother]

theorem State.discard_discard (s : State) (m n : Nat) : (s.discard m).discard n = s.discard (m + n) := by
  simp [State.discard, State.gist, State.emit, unlaid, State.setRing, Nat.add_assoc]

theorem State.gist_discard_zero (s : State) : s.gist.discard 0 = s.gist := by
  simp [State.discard, State.gist, State.emit, unlaid, State.setRing]

/-- What the gist gathers, taken apart again: the GARBAGE total, the other events, and every other field. -/
theorem State.agree_of_gist_eq {s t : State} (h : s.gist = t.gist) (hret : s.ret = t.ret)
    (hbusy : s.rxBusy = t.rxBusy) :
    otherEvents s.ev = otherEvents t.ev ∧ garbageTotal s.ev = garbageTotal t.ev ∧
      unlaid { s with ev := [] } = unlaid { t with ev := [] } := by
  have hev : Event.garbage (garbageTotal s.ev) :: otherEvents s.ev =
      .garbage (garbageTotal t.ev) :: otherEvents t.ev := (congrArg State.ev h :)
  obtain ⟨htotal, hother⟩ := List.cons.inj hev
  refine ⟨hother, Event.garbage.inj htotal, ?_⟩
  have hrest : unlaid { s with ev := [], ret := t.ret, rxBusy := t.rxBusy } =
      unlaid { t with ev := [], ret := t.ret, rxBusy := t.rxBusy } :=
    (congrArg (fun u : State => { u with ev := [], ret := t.ret, rxBusy := t.rxBusy }) h :)
  rw [← hrest, ← hret, ← hbusy]

/-! ### A handled frame changes the gist alone -/

/-- `t` may come of `s` by handling a frame: it has the bytes and the binding of `s`, and a transport that fails no
write. -/
def State.handlesTo (s t : State) : Prop := t.rb = s.rb ∧ t.cfg = s.cfg ∧ t.link = []

/-- The operation answers `a`, leaves the bytes of the ring buffer, and does to the gist what it does to the state. -/
def answersAlike {α : Type} (op : State → State × Reply α) (s : State) (a : Reply α) : Prop :=
  ∃ t, op s = (t, a) ∧ op s.gist = (t.gist, a) ∧ s.handlesTo t

section
variable {s : State} (hl : s.link = [])
include hl

theorem txWrite_answersAlike (f : Bytes) : answersAlike (txWrite f) s (.ok ()) := by
  have hw : s.writable := by simp [State.writable, hl]
  exact ⟨s.wrote f, txWrite_taken hw, txWrite_taken (s := s.gist) hw, rfl, rfl, by simp [State.wrote, hl]⟩

theorem sendUnstored_answersAlike (env : Bytes) :
    ∃ a, (∀ f, a ≠ .fault f) ∧ answersAlike (sendUnstored env) s a := by
  by_cases h : s.cfg.maxLen.val < env.length
  · have hg : sendUnstored env s.gist = _ := sendUnstored_tooLong h
    exact ⟨_, by simp, _, sendUnstored_tooLong h, by rw [State.gist_emit _ (by simp), hg], rfl, rfl, hl⟩
  · have h' : env.length ≤ s.cfg.maxLen.val := Nat.not_lt.1 h
    obtain ⟨t, h1, h2, h3⟩ := txWrite_answersAlike (s := (allocPid s).1) hl (wrapFrame s.cfg (idByte s.pidCtr) env)
    exact ⟨_, by simp, t, (sendUnstored_fits h').trans h1, (sendUnstored_fits (s := s.gist) h').trans h2, h3⟩

theorem resend_answersAlike (id : Byte) : answersAlike (resend id) s (.ok ()) := by
  have hw : s.writable := by simp [State.writable, hl]
  cases hf : s.histAt id.toNat with
  | none =>
    have hg : resend id s.gist = _ := resend_unknown hf
    exact ⟨_, resend_unknown hf, by rw [State.gist_emit _ (by simp), hg], rfl, rfl, hl⟩
  | some f =>
    have hg : resend id s.gist = _ := resend_taken hf hw
    exact ⟨_, resend_taken hf hw, by rw [State.gist_emit _ (by simp), hg]; rfl, rfl, rfl, by simp [State.wrote, hl]⟩

theorem completeTask_gist (key status : Byte) (rest : Bytes) :
    (completeTask key status rest s).gist = completeTask key status rest s.gist ∧
      s.handlesTo (completeTask key status rest s) := by
  cases hp : s.pendAt key.toNat with
  | true =>
    rw [completeTask_pending hp, completeTask_pending (s := s.gist) hp, State.gist_emit _ (by simp)]
    exact ⟨rfl, rfl, rfl, hl⟩
  | false =>
    rw [completeTask_unmatched hp, completeTask_unmatched (s := s.gist) hp, State.gist_emit _ (by simp)]
    exact ⟨rfl, rfl, rfl, hl⟩

theorem routeStatus_gist (key status : Byte) (rest : Bytes) :
    (routeStatus key status rest s).gist = routeStatus key status rest s.gist ∧
      s.handlesTo (routeStatus key status rest s) := by
  unfold routeStatus
  rw [State.gist_cfg]
  split
  · exact completeTask_gist hl key status rest
  · split <;> exact ⟨State.gist_emit _ (by simp), rfl, rfl, hl⟩

theorem dispatchPayload_answersAlike (id status : Byte) (tail : Bytes) :
    answersAlike (dispatchPayload id status tail) s (.ok .cont) := by
  unfold answersAlike dispatchPayload
  rw [State.gist_cfg]
  cases route s.cfg id status tail with
  | none => exact ⟨_, rfl, by rw [State.gist_emit _ (by simp)], rfl, rfl, hl⟩
  | some p =>
    obtain ⟨key, rest⟩ := p
    obtain ⟨hg, hrb, hcfg, hlink⟩ := routeStatus_gist hl key status rest
    dsimp only
    split
    · obtain ⟨a, ha, t, h1, h2, htrb, htcfg, htlink⟩ := sendUnstored_answersAlike hlink (ackEnvelope s.cfg key)
      have h1' : sendAck key (routeStatus key status rest s) = (t, a) := by
        rw [sendAck, hcfg]
        exact h1
      have h2' : sendAck key (routeStatus key status rest s.gist) = (t.gist, a) := by
        rw [← hg, sendAck, State.gist_cfg, hcfg]
        exact h2
      rw [h1', h2']
      refine ⟨t, ?_, ?_, htrb.trans hrb, htcfg.trans hcfg, htlink⟩ <;>
        cases a with
        | fault f => exact absurd rfl (ha f)
        | _ => rfl
    · exact ⟨_, rfl, by rw [hg], hrb, hcfg, hlink⟩

/-- A bad frame (R187): its event and a negative frame. -/
theorem sendNegative_answersAlike (id : Byte) {e : Event} (he : ∀ n, e ≠ .garbage n) :
    answersAlike (fun s => thenContinue (sendNegative id (s.emit e))) s (.ok .cont) := by
  obtain ⟨t, h1, h2, h3⟩ := txWrite_answersAlike (s := s.emit e) hl (wrapFrame s.cfg id [])
  rw [State.gist_emit _ he] at h2
  exact ⟨t, congrArg thenContinue h1, congrArg thenContinue h2, h3⟩

theorem handleUnwrapped_answersAlike (u : Unwrapped) : answersAlike (handleUnwrapped u) s (.ok .cont) := by
  cases u with
  | crcMismatch id => exact sendNegative_answersAlike hl id (e := .crcMismatch id) (by simp)
  | badEscape id => exact sendNegative_answersAlike hl id (e := .badEscape id) (by simp)
  | ok id payload =>
    cases payload with
    | nil =>
      obtain ⟨t, h1, h2, h3⟩ := resend_answersAlike hl id
      exact ⟨t, congrArg thenContinue h1, congrArg thenContinue h2, h3⟩
    | cons status tail => exact dispatchPayload_answersAlike hl id status tail

end

end Sys2Proof.Machine
end

section
/-! SUPPORT. PARSE_STEP as a function of the bytes in the ring buffer and the gist, and what it does when more bytes
follow (43_receive_path.md R181 to R186). -/

namespace Sys2Proof.Machine

/-- Phases 2 to 8 (R183 to R189) on the bytes from a candidate's first on. -/
def parseHead (bs : Bytes) (k : State) : Bytes × State × Reply Turn :=
  if bs.length < 5 then (bs, k, .ok .wait)
  else
    match acceptedLen k.cfg (bs.getD 1 0) (bs.getD 2 0) with
    | none => (bs.drop 1, k.emit (.badLength (bs.getD 1 0) (bs.getD 2 0)), .ok .cont)
    | some len =>
      match physSpan k.cfg bs len with
      | none => (bs, k, .ok .wait)
      | some n => (bs.drop n, handleUnwrapped (unwrap k.cfg (bs.take n)) k)

/-- A byte that is not `START`. -/
def notStart (c : Params) (b : Byte) : Bool := b != c.start

/-- PARSE_STEP (R181, R182): the bytes before the first `START` are GARBAGE. -/
def parseBytes (bs : Bytes) (k : State) : Bytes × State × Reply Turn :=
  parseHead (bs.dropWhile (notStart k.cfg)) (k.discard (bs.takeWhile (notStart k.cfg)).length)

/-- Phases 2 to 8 do to the bytes, the gist and the answer what `parseHead` says. -/
theorem parseCandidate_eq_parseHead {s : State} (hl : s.link = []) :
    ((parseCandidate s).1.rb, (parseCandidate s).1.gist, (parseCandidate s).2) = parseHead s.rb s.gist := by
  unfold parseCandidate parseHead
  rw [State.rb_length, State.gist_cfg]
  split
  · rfl
  · dsimp only
    cases acceptedLen s.cfg (s.rb.getD 1 0) (s.rb.getD 2 0) with
    | none =>
      dsimp only
      rw [State.gist_emit _ (by simp), State.emit_rb, State.dropHead_rb s (by omega), State.gist_dropHead]
    | some len =>
      dsimp only
      cases hn : physSpan s.cfg s.rb len with
      | none => rfl
      | some n =>
        have hle : n ≤ s.rbSize := by simpa using (physSpan_le hn).2
        obtain ⟨t, h1, h2, hrb, -, -⟩ := handleUnwrapped_answersAlike (s := s.dropHead n) (by simpa using hl)
          (unwrap s.cfg (s.rb.take n))
        rw [State.gist_dropHead] at h2
        dsimp only
        rw [h1, h2, hrb, State.dropHead_rb s hle]

/-- Searching for `START` counts the bytes before it. -/
theorem scanFor_start (c : Params) (bs : Bytes) : ∀ i, scanFor c.start i bs =
    if c.start ∈ bs then some (i + (bs.takeWhile (notStart c)).length) else none := by
  induction bs with
  | nil => simp [scanFor]
  | cons b t ih =>
    intro i
    by_cases hb : b = c.start
    · simp [scanFor, notStart, hb]
    · have hp : notStart c b = true := by simp [notStart, hb]
      simp [scanFor, hp, hb, Ne.symm hb, ih, Nat.add_assoc, Nat.add_comm 1]

theorem dropWhile_eq_drop_length_takeWhile (p : Byte → Bool) (bs : Bytes) :
    bs.dropWhile p = bs.drop (bs.takeWhile p).length := by
  have h := List.drop_left (l₁ := bs.takeWhile p) (l₂ := bs.dropWhile p)
  rw [List.takeWhile_append_dropWhile] at h
  exact h.symm

/-- PARSE_STEP does to the bytes, the gist and the answer what `parseBytes` says. -/
theorem parseOne_eq_parseBytes {s : State} (hl : s.link = []) :
    ((parseOne s).1.rb, (parseOne s).1.gist, (parseOne s).2) = parseBytes s.rb s.gist := by
  unfold parseOne parseBytes ringFind
  rw [List.drop_zero, scanFor_start, Nat.zero_add, dropWhile_eq_drop_length_takeWhile, State.gist_cfg]
  by_cases h0 : s.rbSize = 0
  · simp [h0, s.rb_eq_nil.2 h0, parseHead, State.gist_discard_zero]
  by_cases hmem : s.cfg.start ∈ s.rb
  · have hle : (s.rb.takeWhile (notStart s.cfg)).length ≤ s.rbSize := by
      rw [← State.rb_length]
      exact (List.takeWhile_sublist _).length_le
    rw [if_neg h0, if_pos hmem]
    dsimp only
    split
    · rename_i hk
      rw [hk, State.gist_discard_zero]
      exact parseCandidate_eq_parseHead hl
    · rw [parseCandidate_eq_parseHead (by simpa using hl), State.gist_emit_garbage, State.emit_rb,
        State.dropHead_rb s hle, State.gist_dropHead]
  · have hall : s.rb.takeWhile (notStart s.cfg) = s.rb := by
      refine List.takeWhile_eq_self_iff.2 fun b hb => ?_
      have hne : b ≠ s.cfg.start := fun h => hmem (h ▸ hb)
      simpa [notStart] using hne
    rw [if_neg h0, if_neg hmem, hall]
    dsimp only
    rw [State.gist_emit_garbage, State.emit_rb, State.dropHead_rb s (Nat.le_refl _), State.gist_dropHead]
    simp [parseHead]

/-! ### More bytes -/

theorem spanWalk_append (c : Params) (y : Bytes) : ∀ (n : Nat) (bs : Bytes) (pos k : Nat),
    spanWalk c n bs pos = some k → spanWalk c n (bs ++ y) pos = some k := by
  intro n
  induction n with
  | zero => exact fun bs pos k h => h
  | succ n ih =>
    intro bs pos k h
    cases bs with
    | nil => cases h
    | cons b t =>
      by_cases hb : b = c.esc
      · cases t with
        | nil => simp [spanWalk, hb] at h
        | cons b' t' =>
          simp only [List.cons_append, spanWalk, hb, if_true] at h ⊢
          exact ih _ _ _ h
      · simp only [List.cons_append, spanWalk, hb, if_false] at h ⊢
        exact ih _ _ _ h

/-- A span found stays found when bytes are appended (R147). -/
theorem physSpan_append {c : Params} {bs : Bytes} {len n : Nat} (h : physSpan c bs len = some n) (y : Bytes) :
    physSpan c (bs ++ y) len = some n := by
  have hlong : 4 ≤ bs.length := by
    have := physSpan_le h
    omega
  unfold physSpan at *
  rw [List.drop_append_of_le_length hlong]
  exact spanWalk_append c y _ _ _ _ h

/-- A candidate either lacks bytes, and nothing happens, or bytes are taken from the front, whatever comes after them. -/
theorem parseHead_cases (bs : Bytes) {k : State} (hl : k.link = []) :
    parseHead bs k = (bs, k, .ok .wait) ∨
    ∃ n k', 1 ≤ n ∧ n ≤ bs.length ∧ k'.cfg = k.cfg ∧ k'.link = [] ∧
      ∀ y, parseHead (bs ++ y) k = (bs.drop n ++ y, k', .ok .cont) := by
  by_cases h5 : bs.length < 5
  · exact .inl (by simp [parseHead, h5])
  have h5y : ∀ y : Bytes, ¬ (bs ++ y).length < 5 := by
    simp only [List.length_append]
    omega
  have hget : ∀ (y : Bytes) (i : Nat), i < 5 → (bs ++ y).getD i 0 = bs.getD i 0 := fun y i hi =>
    List.getD_append bs y 0 i (by omega)
  cases ha : acceptedLen k.cfg (bs.getD 1 0) (bs.getD 2 0) with
  | none =>
    refine .inr ⟨1, k.emit (.badLength (bs.getD 1 0) (bs.getD 2 0)), Nat.le_refl 1, by omega, rfl, hl, fun y => ?_⟩
    rw [parseHead, if_neg (h5y y), hget y 1 (by omega), hget y 2 (by omega), ha,
      List.drop_append_of_le_length (by omega)]
  | some len =>
    cases hn : physSpan k.cfg bs len with
    | none => exact .inl (by simp only [parseHead, h5, if_false, ha, hn])
    | some n =>
      obtain ⟨t, ht, -, -, hcfg, hlink⟩ := handleUnwrapped_answersAlike hl (unwrap k.cfg (bs.take n))
      obtain ⟨hpos, hle⟩ := physSpan_le hn
      refine .inr ⟨n, t, by omega, hle, hcfg, hlink, fun y => ?_⟩
      rw [parseHead, if_neg (h5y y), hget y 1 (by omega), hget y 2 (by omega), ha]
      dsimp only
      rw [physSpan_append hn y]
      dsimp only
      rw [List.take_append_of_le_length hle, List.drop_append_of_le_length hle, ht]

/-- What precedes the first `START` may as well be discarded before the bytes that come later are there. -/
theorem parseBytes_append (y : Bytes) : ∀ (bs : Bytes) (k : State), parseBytes (bs ++ y) k =
    parseBytes (bs.dropWhile (notStart k.cfg) ++ y) (k.discard (bs.takeWhile (notStart k.cfg)).length) := by
  intro bs
  induction bs with
  | nil =>
    intro k
    simp [parseBytes, State.discard_discard]
  | cons b t ih =>
    intro k
    cases hb : notStart k.cfg b with
    | true =>
      have hfirst : parseBytes (b :: t ++ y) k = parseBytes (t ++ y) (k.discard 1) := by
        simp [parseBytes, State.discard_discard, hb, Nat.add_comm]
      rw [hfirst, ih, State.discard_discard, State.discard_cfg]
      simp [hb, Nat.add_comm]
    | false => simp [parseBytes, State.discard_discard, hb]

/-- From the first `START` on, PARSE_STEP is phases 2 to 8. -/
theorem parseBytes_of_start {c : Params} {bs : Bytes} {k : State} (hc : k.cfg = c)
    (h : bs.dropWhile (notStart c) ≠ []) (y : Bytes) (n : Nat) :
    parseBytes (bs.dropWhile (notStart c) ++ y) (k.discard n) =
      parseHead (bs.dropWhile (notStart c) ++ y) (k.discard n) := by
  have hhead := List.head_dropWhile_not (notStart c) h
  generalize bs.dropWhile (notStart c) = rest at h hhead ⊢
  cases rest with
  | nil => exact absurd rfl h
  | cons b t =>
    have hb : notStart c b = false := hhead
    simp [parseBytes, State.discard_discard, hc, hb]

/-- A PARSE_STEP either waits, and leaves what may as well be parsed with the bytes that come later, or takes at least one
byte, whatever comes later. -/
theorem parseBytes_cases (bs : Bytes) {k : State} (hl : k.link = []) :
    ∃ bs' k', bs'.length ≤ bs.length ∧ k'.cfg = k.cfg ∧ k'.link = [] ∧
      ((parseBytes bs k = (bs', k', .ok .wait) ∧ ∀ y, parseBytes (bs ++ y) k = parseBytes (bs' ++ y) k') ∨
        (bs'.length < bs.length ∧ ∀ y, parseBytes (bs ++ y) k = (bs' ++ y, k', .ok .cont))) := by
  have hle : (bs.dropWhile (notStart k.cfg)).length ≤ bs.length := (List.dropWhile_sublist _).length_le
  rcases parseHead_cases (bs.dropWhile (notStart k.cfg))
    (k := k.discard (bs.takeWhile (notStart k.cfg)).length) hl with hwait | ⟨n, k', hpos, hn, hcfg, hlink, hcont⟩
  · exact ⟨_, k.discard _, hle, rfl, hl, .inl ⟨hwait, fun y => parseBytes_append y bs k⟩⟩
  · have hlt : ((bs.dropWhile (notStart k.cfg)).drop n).length < bs.length := by
      rw [List.length_drop]
      omega
    have hne : bs.dropWhile (notStart k.cfg) ≠ [] := List.ne_nil_of_length_pos (by omega)
    exact ⟨_, k', hlt.le, hcfg, hlink, .inr ⟨hlt, fun y => by
      rw [parseBytes_append, parseBytes_of_start rfl hne, hcont]⟩⟩

end Sys2Proof.Machine
end

section
/-! SUPPORT. Chunking (43_receive_path.md R198 (a), 20_memory.md R53): PARSE_STEPs until WAIT, first over bytes and gist,
then as whole RX_CHUNKs. -/

open Sys2Proof.Claims

namespace Sys2Proof.Machine

/-- PARSE_STEPs from the bytes `bs` and the gist `k` on end at the first WAIT, with the bytes `bs'` and the gist `k'`. -/
inductive ParsesTo : Bytes → State → Bytes → State → Prop where
  | wait {bs bs' : Bytes} {k k' : State} : parseBytes bs k = (bs', k', .ok .wait) → ParsesTo bs k bs' k'
  | cont {bs bs₁ bs' : Bytes} {k k₁ k' : State} : parseBytes bs k = (bs₁, k₁, .ok .cont) → bs₁.length < bs.length →
      k₁.link = [] → ParsesTo bs₁ k₁ bs' k' → ParsesTo bs k bs' k'

/-- The first PARSE_STEP settles the rest. -/
theorem ParsesTo.of_parseBytes_eq {bs bs₁ bs' : Bytes} {k k₁ k' : State} (h : parseBytes bs k = parseBytes bs₁ k₁)
    (hle : bs₁.length ≤ bs.length) (d : ParsesTo bs₁ k₁ bs' k') : ParsesTo bs k bs' k' := by
  cases d with
  | wait hp => exact .wait (h.trans hp)
  | cont hp hlt hlink d => exact .cont (h.trans hp) (hlt.trans_le hle) hlink d

/-- R198 (a) for the bytes and the gist: parsing ends, and what it leaves, parsed with the bytes that come later, ends as
all the bytes together do. -/
theorem parsesTo_then_later (bs : Bytes) (k : State) (hl : k.link = []) :
    ∃ bs' k', bs'.length ≤ bs.length ∧ k'.cfg = k.cfg ∧ k'.link = [] ∧ ParsesTo bs k bs' k' ∧
      ∀ y bs'' k'', ParsesTo (bs' ++ y) k' bs'' k'' → ParsesTo (bs ++ y) k bs'' k'' := by
  induction hn : bs.length using Nat.strong_induction_on generalizing bs k with
  | _ n ih =>
    subst hn
    obtain ⟨bs₁, k₁, hle, hcfg, hlink, ⟨hwait, hlater⟩ | ⟨hlt, hcont⟩⟩ := parseBytes_cases bs hl
    · refine ⟨bs₁, k₁, hle, hcfg, hlink, .wait hwait, fun y bs'' k'' d => ?_⟩
      exact .of_parseBytes_eq (hlater y) (by simpa using hle) d
    · obtain ⟨bs', k', hle', hcfg', hlink', hd, hlater⟩ := ih _ hlt bs₁ k₁ hlink rfl
      refine ⟨bs', k', hle'.trans hle, hcfg'.trans hcfg, hlink', .cont (by simpa using hcont []) hlt hlink hd, ?_⟩
      exact fun y bs'' k'' d => .cont (hcont y) (by simpa using hlt) hlink (hlater y _ _ d)

/-! ### Whole chunks -/

/-- `s` holds the bytes `bs`, in ordered cursors, and has the gist `k`. -/
def State.shows (s : State) (bs : Bytes) (k : State) : Prop := s.rb = bs ∧ s.gist = k ∧ s.cursorsOk

/-- A PARSE_STEP of the machine is one of `parseBytes`. -/
theorem exec_parseStep_shows {s : State} {bs bs' : Bytes} {k k' : State} {a : Turn} (h : s.shows bs k)
    (hl : k.link = []) (hp : parseBytes bs k = (bs', k', .ok a)) :
    ∃ t, exec .parseStep s = .next t ∧ t.shows bs' k' ∧ t.ret = .turn a := by
  obtain ⟨rfl, rfl, hc⟩ := h
  rw [← parseOne_eq_parseBytes (s := s) hl] at hp
  obtain ⟨hrb, hanswer⟩ := Prod.mk.inj hp
  obtain ⟨hgist, hturn⟩ := Prod.mk.inj hanswer
  -- a state whose cursors are in order is one that has the same view as itself
  have hself : sameView (parseOne s).1 (parseOne s).1 := (lockstep_sameView.parseOne ⟨rfl, rfl, hc, hc⟩).1
  obtain ⟨-, -, hc', -⟩ := hself
  have hone : parseOne s = ((parseOne s).1, .ok a) := Prod.ext rfl hturn
  exact ⟨_, congrArg (conclude .turn) hone, ⟨hrb, hgist, hc'⟩, rfl⟩

/-- With fuel for every byte held, the machine's PARSE_STEPs end as `ParsesTo` says. -/
theorem parseUntilWait_of_parsesTo {bs bs' : Bytes} {k k' : State} (d : ParsesTo bs k bs' k') :
    ∀ {s : State} {n : Nat}, s.shows bs k → k.link = [] → bs.length < n →
      ∃ t, parseUntilWait n s = some t ∧ t.shows bs' k' ∧ t.ret = .turn .wait := by
  induction d with
  | wait hp =>
    intro s n h hl hn
    obtain ⟨m, rfl⟩ := Nat.exists_eq_add_of_lt hn
    obtain ⟨t, ht, hshows, hret⟩ := exec_parseStep_shows h hl hp
    exact ⟨t, by simp [parseUntilWait, ht, hret], hshows, hret⟩
  | cont hp hlt hlink _ ih =>
    intro s n h hl hn
    obtain ⟨m, rfl⟩ := Nat.exists_eq_add_of_lt hn
    obtain ⟨t, ht, hshows, hret⟩ := exec_parseStep_shows h hl hp
    obtain ⟨u, hu, hrest⟩ := ih hshows hlink (n := _ + m) (Nat.lt_add_right m hlt)
    exact ⟨u, by simpa [parseUntilWait, ht, hret] using hu, hrest⟩

/-- An RX_CHUNK of bytes that fit, run to its WAIT, is parsing what was held and then the chunk. -/
theorem wholeChunk_of_parsesTo {s : State} {bs x bs' : Bytes} {k k' : State} (h : s.shows bs k) (hl : k.link = [])
    (hbusy : s.rxBusy = false) (fit : k.cfg.capFits (bs.length + x.length) = true) (d : ParsesTo (bs ++ x) k bs' k') :
    ∃ u, wholeChunk x s = some u ∧ u.shows bs' k' ∧ u.ret = .turn .wait ∧ u.rxBusy = false := by
  obtain ⟨rfl, rfl, hc⟩ := h
  rw [State.rb_length, State.gist_cfg] at fit
  have hpush : exec (.rxChunk x) s = .next (((s.pushTail x).setBusy true).setRet .none) := by
    simp [exec, execRxChunk, hbusy, ringAppend_fits fit, finish]
  have hshows : (((s.pushTail x).setBusy true).setRet .none).shows (s.rb ++ x) s.gist :=
    ⟨s.pushTail_rb x hc.1, s.gist_pushTail x, s.pushTail_cursorsOk x hc fit⟩
  obtain ⟨u, hu, ⟨hrb, hgist, hcur⟩, hret⟩ := parseUntilWait_of_parsesTo d hshows hl (Nat.lt_succ_self _)
  refine ⟨u.setBusy false, ?_, ⟨hrb, hgist, hcur⟩, hret, rfl⟩
  rw [← hshows.1] at hu
  simp only [wholeChunk, hpush, hu, Option.map_some]

/-- Settles O48: parsing what the first chunk left and then the second is parsing both at once. -/
theorem chunkingIsUnobservable : Obligations.ChunkingIsUnobservable := by
  unfold Obligations.ChunkingIsUnobservable
  intro s x y hc hl hbusy fit
  have fitx : s.cfg.capFits (s.rb.length + x.length) = true := Params.capFits_le fit (by omega)
  have hs : s.shows s.rb s.gist := ⟨rfl, rfl, hc⟩
  obtain ⟨bs₁, k₁, hle₁, hcfg₁, hl₁, hd₁, hlater⟩ := parsesTo_then_later (s.rb ++ x) s.gist hl
  obtain ⟨bs₂, k₂, -, -, -, hd₂, -⟩ := parsesTo_then_later (bs₁ ++ y) k₁ hl₁
  have hd : ParsesTo (s.rb ++ (x ++ y)) s.gist bs₂ k₂ := by
    rw [← List.append_assoc]
    exact hlater y _ _ hd₂
  obtain ⟨u, hu, hushows, -, hubusy⟩ := wholeChunk_of_parsesTo hs hl hbusy fitx hd₁
  have fity : k₁.cfg.capFits (bs₁.length + y.length) = true := by
    rw [List.length_append] at hle₁
    rw [hcfg₁]
    exact Params.capFits_le fit (by omega)
  obtain ⟨v, hv, ⟨hvrb, hvgist, -⟩, hvret, hvbusy⟩ := wholeChunk_of_parsesTo hushows hl₁ hubusy fity hd₂
  obtain ⟨w, hw, ⟨hwrb, hwgist, -⟩, hwret, hwbusy⟩ :=
    wholeChunk_of_parsesTo hs hl hbusy (by rwa [List.length_append]) hd
  exact ⟨u, v, w, hu, hv, hw, hvrb.trans hwrb.symm, State.agree_of_gist_eq (hvgist.trans hwgist.symm)
    (hvret.trans hwret.symm) (hvbusy.trans hwbusy.symm)⟩

end Sys2Proof.Machine
end

section
/-! SUPPORT. The wire formats' codec (30_encoding.md R80, R86, R88): how long an escaped string is, that it holds no raw
`START`, and that PHYS_SPAN measures the frame WRAP_ID builds. -/

open Sys2Proof.Claims

namespace Sys2Proof

/-! ### Escaped strings (R146) -/

theorem escByte_length (c : Params) (b : Byte) : (escByte c b).length = 1 + markerCount c [b] := by
  unfold escByte markerCount
  by_cases hs : b = c.start
  · simp [hs]
  · by_cases he : b = c.esc
    · simp [he, he ▸ hs]
    · simp [hs, he]

theorem markerCount_cons (c : Params) (b : Byte) (s : Bytes) :
    markerCount c (b :: s) = markerCount c [b] + markerCount c s :=
  List.countP_append (l₁ := [b])

theorem escape_length (c : Params) (s : Bytes) : (escape c s).length = s.length + markerCount c s := by
  induction s with
  | nil => rfl
  | cons b s ih =>
    rw [escape, List.length_append, escByte_length, ih, List.length_cons, markerCount_cons c b s]
    omega

theorem start_notMem_escByte {c : Params} (h : c.Valid) (b : Byte) : c.start ∉ escByte c b := by
  obtain ⟨hesc, htstart, htesc, -⟩ := h.markers_ne
  unfold escByte
  split
  · simp [hesc, htstart]
  · split
    · simp [hesc, htesc]
    · simpa using Ne.symm ‹b ≠ c.start›

theorem start_notMem_escape {c : Params} (h : c.Valid) (s : Bytes) : c.start ∉ escape c s := by
  induction s with
  | nil => exact List.not_mem_nil
  | cons b s ih => simp [escape, start_notMem_escByte h, ih]

/-! ### The frame's span (R88, R147) -/

theorem frameBytes_length (c : Params) (id : Byte) (payload : Bytes) (crc : Byte) :
    (frameBytes c id payload crc).length = 5 + payload.length + markerCount c (payload ++ [crc]) := by
  rw [frameBytes_body, List.length_append, escape_length]
  simp
  omega

/-- PHYS_SPAN of a buffer that begins with a frame is the frame's length, whatever follows (R147). -/
theorem physSpan_frameBytes (c : Params) (id : Byte) (payload : Bytes) (crc : Byte) (more : Bytes) :
    physSpan c (frameBytes c id payload crc ++ more) payload.length = some (frameBytes c id payload crc).length := by
  have hwalk := spanWalk_escape c (payload ++ [crc]) more 4
  rw [List.length_append, List.length_singleton] at hwalk
  rw [frameBytes_body, List.length_append, Nat.add_comm _ (escape c _).length]
  rw [Nat.add_comm 4] at hwalk
  exact hwalk

/-- On a proper beginning of a frame PHYS_SPAN needs more: a length found there would be the whole frame's. -/
theorem physSpan_take_frameBytes (c : Params) (id : Byte) (payload : Bytes) (crc : Byte) {k : Nat}
    (hk : k < (frameBytes c id payload crc).length) :
    physSpan c ((frameBytes c id payload crc).take k) payload.length = none := by
  rw [Option.eq_none_iff_forall_ne_some]
  intro n hn
  have hle := (Machine.physSpan_le hn).2
  have hwhole := Machine.physSpan_append hn ((frameBytes c id payload crc).drop k)
  rw [List.take_append_drop, ← List.append_nil (frameBytes c id payload crc), physSpan_frameBytes] at hwhole
  cases hwhole
  rw [List.length_take] at hle
  omega

end Sys2Proof
end

section
/-! SUPPORT. The decoder's contexts one by one (30_encoding.md R100): what each answers on the bytes its encoder writes,
and that what it answers is well-formed. -/

namespace Sys2Proof

/-! ### The byte stream (R80, R95, R96) -/

/-- What the decoder of the byte stream must find to answer a frame. -/
theorem decodeFrame_of_found {c : Params} {bs body : Bytes} {len n : Nat} (hstart : bs.head? = some c.start)
    (hl : acceptedLen c (bs.getD 1 0) (bs.getD 2 0) = some len) (hn : physSpan c bs len = some n)
    (hb : unescape c ((bs.take n).drop 4) = some body) :
    decodeFrame c bs = .ok (frameInstr (bs.getD 3 0) (body.take len) (body.getD len 0)) (bs.drop n) := by
  have h5 : ¬ bs.length < 5 := by
    have := Machine.physSpan_le hn
    omega
  rw [decodeFrame, if_neg (not_not.2 hstart), if_neg h5]
  simp only [hl, hn, hb]

/-- The decoder reads a frame as it was written, and leaves what follows it. -/
theorem decodeFrame_frameBytes {c : Params} (hv : c.Valid) (id : Byte) {payload : Bytes} (crc : Byte)
    (hl : payload.length ≤ c.maxLen.val) (more : Bytes) :
    decodeFrame c (frameBytes c id payload crc ++ more) = .ok (frameInstr id payload crc) more := by
  have hbody : unescape c (((frameBytes c id payload crc ++ more).take (frameBytes c id payload crc).length).drop 4) =
      some (payload ++ [crc]) := by
    rw [List.take_left, frameBytes_body]
    exact unescape_escape hv _
  have hdec := decodeFrame_of_found (bs := frameBytes c id payload crc ++ more) (by simp [frameBytes_body])
    (by simpa [frameBytes_body] using acceptedLen_split hl) (physSpan_frameBytes c id payload crc more) hbody
  simpa [frameBytes_body] using hdec

theorem frameInstr_wellFormed {c : Params} (id : Byte) {payload : Bytes} (crc : Byte)
    (hl : payload.length ≤ c.maxLen.val) : (frameInstr id payload crc).wellFormed c = true := by
  cases payload with
  | nil => rfl
  | cons b t => simpa [frameInstr, Instr.wellFormed] using hl

theorem acceptedLen_le_maxLen {c : Params} {l0 l1 : Byte} {len : Nat} (h : acceptedLen c l0 l1 = some len) :
    len ≤ c.maxLen.val := by
  unfold acceptedLen at h
  split at h
  · cases h
  split at h
  · cases h
  cases h
  exact Nat.not_lt.1 ‹_›

theorem decodeFrame_wellFormed {c : Params} {bs rest : Bytes} {i : Instr} (h : decodeFrame c bs = .ok i rest) :
    i.wellFormed c = true := by
  obtain ⟨-, -, len, n, body, hl, -, -, rfl, -⟩ := decodeFrame_ok h
  exact frameInstr_wellFormed _ _ ((List.length_take_le _ _).trans (acceptedLen_le_maxLen hl))

/-! ### The escaped span (R86) -/

theorem decodeEscape_tstart (c : Params) (more : Bytes) :
    decodeEscape c (c.esc :: c.tstart :: more) = .ok .escStart more := by
  simp [decodeEscape]

theorem decodeEscape_tesc {c : Params} (hv : c.Valid) (more : Bytes) :
    decodeEscape c (c.esc :: c.tesc :: more) = .ok .escEsc more := by
  obtain ⟨-, -, -, -, -, hne⟩ := hv.markers_ne
  simp [decodeEscape, hne.symm]

theorem decodeEscape_wellFormed {c : Params} {bs rest : Bytes} {i : Instr} (h : decodeEscape c bs = .ok i rest) :
    i.wellFormed c = true := by
  unfold decodeEscape at h
  split at h
  · cases h
  split at h
  · cases h
  split at h
  · cases h
  split at h
  · cases h
    rfl
  split at h
  · cases h
    rfl
  · cases h

/-! ### Envelopes (R89 to R93) -/

/-- The three envelope opcodes of a valid binding differ (K5). -/
theorem Params.Valid.opcodes_ne {c : Params} (h : c.Valid) :
    c.addOpcode ≠ c.ackOpcode ∧ c.addOpcode ≠ c.abortOpcode ∧ c.ackOpcode ≠ c.abortOpcode := by
  obtain ⟨-, -, -, -, hop, -⟩ := c.valid_iff.1 h
  simpa [Params.opcodes, and_assoc] using hop

theorem flagsByte_reserved (flags : BitVec 3) : flagsByte flags &&& 0xF8#8 = 0#8 := by
  revert flags
  decide

theorem setWidth_flagsByte (flags : BitVec 3) : (flagsByte flags).setWidth 3 = flags :=
  BitVec.setWidth_setWidth_of_le flags (by decide)

theorem idByte_toNat (k : IssuedId) : (idByte k).toNat = k.val :=
  Nat.mod_eq_of_lt (Nat.lt_trans k.isLt (by decide))

theorem decodeAdd_fields (flags : BitVec 3) (tid : IssuedId) (user : Bytes) :
    decodeAdd (flagsByte flags :: idByte tid :: user) = .ok (.envAdd flags tid user) [] := by
  have htid : (idByte tid).toNat < idMod := by rw [idByte_toNat]; exact tid.isLt
  simp only [decodeAdd, flagsByte_reserved, ne_eq, not_true_eq_false, if_false, dif_pos htid, setWidth_flagsByte]
  simp only [idByte_toNat]

theorem decodeEnvelope_add {c : Params} {flags : BitVec 3} {tid : IssuedId} {user : Bytes}
    (hl : 3 + user.length ≤ c.maxLen.val) :
    decodeEnvelope c (addEnvelope c flags tid user) = .ok (.envAdd flags tid user) [] := by
  have hfit : ¬ c.maxLen.val < (addEnvelope c flags tid user).length := by simp [addEnvelope]; omega
  unfold decodeEnvelope
  rw [if_neg hfit]
  simp [addEnvelope, decodeAdd_fields]

theorem decodeEnvelope_ack {c : Params} (hv : c.Valid) {key : Byte} (hl : 2 ≤ c.maxLen.val) :
    decodeEnvelope c (ackEnvelope c key) = .ok (.envAck key) [] := by
  have hfit : ¬ c.maxLen.val < (ackEnvelope c key).length := Nat.not_lt.2 hl
  unfold decodeEnvelope
  rw [if_neg hfit]
  simp [ackEnvelope, hv.opcodes_ne.1.symm]

theorem decodeEnvelope_abort {c : Params} (hv : c.Valid) (hl : 1 ≤ c.maxLen.val) :
    decodeEnvelope c (abortEnvelope c) = .ok .envAbort [] := by
  obtain ⟨-, hadd, hack⟩ := hv.opcodes_ne
  have hfit : ¬ c.maxLen.val < (abortEnvelope c).length := Nat.not_lt.2 hl
  unfold decodeEnvelope
  rw [if_neg hfit]
  simp [abortEnvelope, hadd.symm, hack.symm]

/-- The add-task decoder answers an envelope that has every byte after the opcode. -/
theorem decodeAdd_ok {t rest : Bytes} {i : Instr} (h : decodeAdd t = .ok i rest) :
    ∃ flags tid user, i = .envAdd flags tid user ∧ t.length = 2 + user.length := by
  unfold decodeAdd at h
  split at h
  · split at h
    · cases h
    split at h
    · cases h
      exact ⟨_, _, _, rfl, by simp; omega⟩
    · cases h
  · cases h

theorem decodeEnvelope_wellFormed {c : Params} {bs rest : Bytes} {i : Instr} (h : decodeEnvelope c bs = .ok i rest) :
    i.wellFormed c = true := by
  unfold decodeEnvelope at h
  split at h
  · cases h
  rename_i hfit
  split at h
  · cases h
  rw [List.length_cons] at hfit
  split at h
  · obtain ⟨flags, tid, user, rfl, hlen⟩ := decodeAdd_ok h
    simp only [Instr.wellFormed, decide_eq_true_eq]
    omega
  split at h
  · split at h
    · cases h
      exact decide_eq_true (Nat.not_lt.1 hfit)
    · cases h
  split at h
  · split at h
    · cases h
      exact decide_eq_true (Nat.not_lt.1 hfit)
    · cases h
  · cases h

/-! ### Received payloads by format (R94) -/

theorem decodeResponse_sync {c : Params} {st : Byte} {t : Bytes} (id : Byte)
    (hw : (Instr.rspSync id st t).wellFormed c = true) :
    decodeResponse c id (st :: t) = .ok (.rspSync id st t) [] := by
  simp only [Instr.wellFormed, Bool.and_eq_true, Bool.not_eq_true', decide_eq_true_eq] at hw
  obtain ⟨hsync, hl⟩ := hw
  have hfit : ¬ c.maxLen.val < (st :: t).length := by rw [List.length_cons]; omega
  unfold decodeResponse
  rw [if_neg hfit]
  simp [hsync]

theorem decodeResponse_async {c : Params} {st tid : Byte} {t : Bytes} (id : Byte)
    (hw : (Instr.rspAsync id st tid t).wellFormed c = true) :
    decodeResponse c id (st :: tid :: t) = .ok (.rspAsync id st tid t) [] := by
  simp only [Instr.wellFormed, Bool.and_eq_true, decide_eq_true_eq] at hw
  obtain ⟨hasync, hl⟩ := hw
  have hfit : ¬ c.maxLen.val < (st :: tid :: t).length := by simp only [List.length_cons]; omega
  unfold decodeResponse
  rw [if_neg hfit]
  simp [hasync]

theorem decodeResponse_wellFormed {c : Params} {id : Byte} {bs rest : Bytes} {i : Instr}
    (h : decodeResponse c id bs = .ok i rest) : i.wellFormed c = true := by
  unfold decodeResponse at h
  split at h
  · cases h
  rename_i hfit
  split at h
  · cases h
  split at h
  · rename_i hasync
    split at h
    · cases h
    · cases h
      simp only [List.length_cons] at hfit
      simp only [Instr.wellFormed, hasync, Bool.true_and, decide_eq_true_eq]
      omega
  · rename_i hsync
    cases h
    rw [List.length_cons] at hfit
    simp only [Instr.wellFormed, hsync, Bool.not_false, Bool.true_and, decide_eq_true_eq]
    omega

/-! ### Received payloads by status (R92) -/

/-- The twelve statuses in the order of R92, each with its row of the opcode table. -/
def statusRows (c : Params) (id : Byte) (t : Bytes) : List (Byte × Instr) :=
  [(c.stPending, .stPending id t), (c.stInProgress, .stInProgress id t), (c.stResult, .stResult id t),
   (c.stError, .stError id t), (c.stStopped, .stStopped id t), (c.stAsyncResult, .stAsyncResult id t),
   (c.stAsyncError, .stAsyncError id t), (c.stWaiting, .stWaiting id t), (c.stOverflow, .stOverflow id t),
   (c.stAlreadyExists, .stAlreadyExists id t), (c.stNotFound, .stNotFound id t),
   (c.stIllegalValue, .stIllegalValue id t)]

theorem statusRows_keys (c : Params) (id : Byte) (t : Bytes) : (statusRows c id t).map Prod.fst = c.statuses := rfl

/-- The decoder's choice by status byte is the lookup in the twelve rows. -/
theorem statusInstr_eq_lookup (c : Params) (id st : Byte) (t : Bytes) :
    statusInstr c id st t = (statusRows c id t).lookup st := by
  have row : ∀ (k : Byte) (v : Instr) (l : List (Byte × Instr)),
      ((k, v) :: l).lookup st = if st = k then some v else l.lookup st := by
    intro k v l
    by_cases h : st = k
    · simp [h]
    · simp [List.lookup_cons, h, beq_eq_false_iff_ne.2 h]
  simp only [statusRows, row, List.lookup_nil]
  rfl

theorem statusRows_wellFormed {c : Params} {id st : Byte} {t : Bytes} {i : Instr} (h : (st, i) ∈ statusRows c id t) :
    i.wellFormed c = decide (1 + t.length ≤ c.maxLen.val) := by
  simp only [statusRows, List.mem_cons, Prod.mk.injEq, List.not_mem_nil, or_false] at h
  rcases h with ⟨-, rfl⟩ | ⟨-, rfl⟩ | ⟨-, rfl⟩ | ⟨-, rfl⟩ | ⟨-, rfl⟩ | ⟨-, rfl⟩ | ⟨-, rfl⟩ | ⟨-, rfl⟩ | ⟨-, rfl⟩ |
    ⟨-, rfl⟩ | ⟨-, rfl⟩ | ⟨-, rfl⟩ <;> rfl

/-- The twelve statuses of a valid binding differ (K4), so a row is found by its status byte. -/
theorem statusInstr_of_mem {c : Params} (hv : c.Valid) {id st : Byte} {t : Bytes} {i : Instr}
    (h : (st, i) ∈ statusRows c id t) : statusInstr c id st t = some i := by
  obtain ⟨-, -, -, hnd, -⟩ := c.valid_iff.1 hv
  obtain ⟨pre, post, hrows⟩ := List.append_of_mem h
  rw [← statusRows_keys c id t, hrows, List.map_append, List.nodup_append] at hnd
  obtain ⟨-, -, hne⟩ := hnd
  rw [statusInstr_eq_lookup, List.lookup_eq_some_iff]
  refine ⟨pre, post, hrows, fun p hp => ?_⟩
  simpa using (hne p.1 (List.mem_map_of_mem hp) st (by simp)).symm

theorem decodeStatus_row {c : Params} (hv : c.Valid) {id st : Byte} {t : Bytes} {i : Instr}
    (h : (st, i) ∈ statusRows c id t) (hw : i.wellFormed c = true) : decodeStatus c id (st :: t) = .ok i [] := by
  rw [statusRows_wellFormed h, decide_eq_true_eq] at hw
  have hfit : ¬ c.maxLen.val < (st :: t).length := by rw [List.length_cons]; omega
  unfold decodeStatus
  rw [if_neg hfit]
  simp only [statusInstr_of_mem hv h]

theorem decodeStatus_wellFormed {c : Params} {id : Byte} {bs rest : Bytes} {i : Instr}
    (h : decodeStatus c id bs = .ok i rest) : i.wellFormed c = true := by
  unfold decodeStatus at h
  split at h
  · cases h
  rename_i hfit
  split at h
  · cases h
  rename_i st t
  split at h
  · rename_i hj
    cases h
    rw [statusInstr_eq_lookup, List.lookup_eq_some_iff] at hj
    obtain ⟨pre, post, hrows, -⟩ := hj
    have hmem : (st, i) ∈ statusRows c id t := by simp [hrows]
    rw [List.length_cons] at hfit
    rw [statusRows_wellFormed hmem, decide_eq_true_eq]
    omega
  · cases h

end Sys2Proof
end

section
/-! Decoder and encoder as a whole (30_encoding.md R80 to R100): the encoder's bytes decode to what they encode, and the
decoder answers well-formed instructions only. -/

namespace Sys2Proof

/-- Bytes decode back in their context: alone everywhere, and in the two contexts that have bytes after them, whatever
these are. -/
def DecodesBack (c : Params) (i : Instr) (ctx : WireContext) (bs : Bytes) : Prop :=
  decode c ctx bs = .ok i [] ∧ ((ctx = .stream ∨ ctx = .escaped) → ∀ more, decode c ctx (bs ++ more) = .ok i more)

theorem DecodesBack.of_followed {c : Params} {i : Instr} {ctx : WireContext} {bs : Bytes}
    (h : ∀ more, decode c ctx (bs ++ more) = .ok i more) : DecodesBack c i ctx bs :=
  ⟨by simpa using h [], fun _ => h⟩

theorem DecodesBack.of_whole {c : Params} {i : Instr} {ctx : WireContext} {bs : Bytes} (h : decode c ctx bs = .ok i [])
    (hctx : ¬ (ctx = .stream ∨ ctx = .escaped)) : DecodesBack c i ctx bs :=
  ⟨h, fun hf => absurd hf hctx⟩

/-- An empty frame's bytes are those of a frame with no payload (R95). -/
theorem encode_frameEmpty (c : Params) (id crc : Byte) :
    encode c (.frameEmpty id crc) = some (.stream, frameBytes c id [] crc) := rfl

theorem encode_decodesBack {c : Params} {i : Instr} {ctx : WireContext} {bs : Bytes} (hv : c.Valid)
    (hw : i.wellFormed c = true) (he : encode c i = some (ctx, bs)) : DecodesBack c i ctx bs := by
  cases i with
  | frame id payload crc =>
    cases he
    simp only [Instr.wellFormed, Bool.and_eq_true, decide_eq_true_eq] at hw
    obtain ⟨hne, hl⟩ := hw
    obtain ⟨b, t, rfl⟩ := List.exists_cons_of_length_pos hne
    exact .of_followed (decodeFrame_frameBytes hv id crc hl)
  | frameEmpty id crc =>
    rw [encode_frameEmpty] at he
    cases he
    exact .of_followed (decodeFrame_frameBytes hv id crc (Nat.zero_le _))
  | escStart =>
    cases he
    exact .of_followed (decodeEscape_tstart c)
  | escEsc =>
    cases he
    exact .of_followed (decodeEscape_tesc hv)
  | envAdd flags tid user =>
    cases he
    exact .of_whole (decodeEnvelope_add (of_decide_eq_true hw)) (by simp)
  | envAck key =>
    cases he
    exact .of_whole (decodeEnvelope_ack hv (of_decide_eq_true hw)) (by simp)
  | envAbort =>
    cases he
    exact .of_whole (decodeEnvelope_abort hv (of_decide_eq_true hw)) (by simp)
  | rspSync id st t =>
    cases he
    exact .of_whole (decodeResponse_sync id hw) (by simp)
  | rspAsync id st tid t =>
    cases he
    exact .of_whole (decodeResponse_async id hw) (by simp)
  | stPending id t | stInProgress id t | stResult id t | stError id t | stStopped id t | stAsyncResult id t
  | stAsyncError id t | stWaiting id t | stOverflow id t | stAlreadyExists id t | stNotFound id t
  | stIllegalValue id t =>
    cases he
    exact .of_whole (decodeStatus_row hv (by simp [statusRows]) hw) (by simp)
  | _ => cases he

/-- Settles O58: context by context, the decoder reads what the encoder wrote. -/
theorem decodeUndoesEncode : Obligations.DecodeUndoesEncode :=
  fun _ _ _ _ hv hw he => encode_decodesBack hv hw he

/-- Settles O59: context by context, the decoder checks what well-formedness asks. -/
theorem decoderAnswersOnlyWellFormed : Obligations.DecoderAnswersOnlyWellFormed := by
  unfold Obligations.DecoderAnswersOnlyWellFormed
  intro c ctx bs rest i h
  cases ctx with
  | stream => exact decodeFrame_wellFormed h
  | escaped => exact decodeEscape_wellFormed h
  | envelope => exact decodeEnvelope_wellFormed h
  | response id => exact decodeResponse_wellFormed h
  | status id => exact decodeStatus_wellFormed h

end Sys2Proof
end

section
/-! The codec and the envelopes as operations (30_encoding.md R83 to R93, 43_receive_path.md R184). -/

namespace Sys2Proof.Machine

/-- Settles O13: each operation answers its codec function, and the codec functions are as R143 to R146 say. -/
theorem escapeIsUndoneByUnescape : Obligations.EscapeIsUndoneByUnescape := by
  unfold Obligations.EscapeIsUndoneByUnescape
  intro s str more b hv
  refine ⟨escape s.cfg str, rfl, start_notMem_escape hv str, escape_length s.cfg str, ?_,
    ⟨escape s.cfg more, rfl, ?_⟩, ⟨escByte s.cfg b, rfl, ?_, rfl⟩, rfl, rfl⟩
  · rw [← unescape_escape hv str]
    rfl
  · rw [← escape_append]
    rfl
  · rw [← escape_singleton]
    rfl

/-- Settles O15: the walk steps over a frame's escaped body exactly, and bytes after a span found do not change it. -/
theorem physSpanMeasuresTheFrame : Obligations.PhysSpanMeasuresTheFrame := by
  unfold Obligations.PhysSpanMeasuresTheFrame
  refine ⟨fun s id crc payload more k => ⟨frameBytes_length s.cfg id payload crc, ?_, fun hk => ?_⟩,
    fun s buf more len => ⟨_, _, rfl, rfl, fun k hk => ⟨physSpan_append hk more, physSpan_le hk⟩⟩⟩
  · rw [← physSpan_frameBytes s.cfg id payload crc more]
    rfl
  · rw [← physSpan_take_frameBytes s.cfg id payload crc hk]
    rfl

/-! ### Envelopes sent (R160) -/

/-- PEND.PUT marks the entry, and the flags record an entry still pending (R165). -/
theorem pendPut_eq (tid : IssuedId) (s : State) : pendPut tid s =
    (s.setFlags (if s.pendAt tid.val then fPendOverrun else 0#3)).setPend tid.val true := by
  unfold pendPut
  split
  · rfl
  · simp [State.setFlags]

/-- The state in which an add-task envelope stands wrapped, remembered and registered, before it is written. -/
def State.registered (s : State) (flags : BitVec 3) (tid : IssuedId) (user : Bytes) : State :=
  pendPut tid (histPut s.pidCtr (wrapFrame s.cfg (idByte s.pidCtr) (addEnvelope s.cfg flags tid user)) (allocPid s).1)

theorem sendAddTask_taken {flags : BitVec 3} {tid : IssuedId} {user : Bytes} {s : State} (hw : s.writable) :
    sendAddTask flags tid user s = ((s.registered flags tid user).wrote
      (wrapFrame s.cfg (idByte s.pidCtr) (addEnvelope s.cfg flags tid user)), .ok ()) := by
  refine txWrite_taken (s := s.registered flags tid user) ?_
  rw [State.registered, pendPut_eq]
  exact hw

/-- An add-task envelope within `MAX_LEN` goes out as SEND sends it. -/
theorem exec_envAdd_fits {flags : BitVec 3} {tid : IssuedId} {user : Bytes} {s : State}
    (hl : 3 + user.length ≤ s.cfg.maxLen.val) :
    exec (.envAdd flags tid user) s = conclude (fun _ => .none) (sendAddTask flags tid user s) :=
  congrArg (conclude fun _ => .none) (if_neg (Nat.not_lt.2 hl))

/-- Settles O24: the rows run what TX_ACK, ABORT and SEND run. -/
theorem envelopesGoOutAsTheirOperationsSendThem : Obligations.EnvelopesGoOutAsTheirOperationsSendThem := by
  unfold Obligations.EnvelopesGoOutAsTheirOperationsSendThem
  intro s key flags tid user hw
  refine ⟨fun _ => ?_, fun _ => ?_, fun hl => ?_⟩
  · obtain ⟨r, hr⟩ := conclude_next (fun _ => .none) (sendAck key s)
    exact ⟨_, hr, hr⟩
  · obtain ⟨r, hr⟩ := conclude_next (fun _ => .none) (sendUnstored (abortEnvelope s.cfg) s)
    exact ⟨_, hr, hr⟩
  · rw [BitVec.ofNat_toNat]
    refine ⟨_, by rw [exec_envAdd_fits hl, sendAddTask_taken hw, conclude_ok], ?_⟩
    rw [State.registered, pendPut_eq]
    refine ⟨rfl, rfl, fun k => ?_, fun k => ?_, ?_, rfl⟩
    · exact State.histAt_setHist (allocPid s).1 s.pidCtr.isLt _ k
    · refine (State.pendAt_setPend s tid.isLt true k).trans ?_
      by_cases hk : k = tid.val <;> simp [hk]
    · show s.faults ||| (if s.pendAt tid.val then fPendOverrun else 0#3) = _
      split
      · rfl
      · exact BitVec.or_zero

/-! ### A bad declared length (R184) -/

theorem parseCandidate_badLength {s : State} (h5 : 5 ≤ s.rbSize)
    (hl : acceptedLen s.cfg (s.rb.getD 1 0) (s.rb.getD 2 0) = none) :
    parseCandidate s = ((s.dropHead 1).emit (.badLength (s.rb.getD 1 0) (s.rb.getD 2 0)), .ok .cont) := by
  unfold parseCandidate
  rw [if_neg (Nat.not_lt.2 h5)]
  simp only [hl]

/-- Dropping less than the whole buffer moves the head alone (R125). -/
theorem State.dropHead_of_lt {s : State} {n : Nat} (h : n < s.rbSize) :
    s.dropHead n = { s with rbHead := s.rbHead + n } := by
  unfold State.rbSize at h
  exact if_neg (by omega)

/-- Settles O42: phase 3 refuses the length, and the buffer keeps at least the four bytes after its `START`. -/
theorem badLengthSkipsOneByte : Obligations.BadLengthSkipsOneByte := by
  unfold Obligations.BadLengthSkipsOneByte
  intro s l0 l1 b3 b4 rest _ hrb hbad
  have h5 : 5 ≤ s.rbSize := by simp [← s.rb_length, hrb]
  have hl : acceptedLen s.cfg (s.rb.getD 1 0) (s.rb.getD 2 0) = none := by
    rw [hrb, acceptedLen_eq]
    exact if_pos hbad
  have hdrop := State.dropHead_of_lt (s := s) (n := 1) (by omega)
  refine ⟨((s.dropHead 1).emit (.badLength l0 l1)).setRet (.turn .cont), ?_, ?_, ?_⟩
  · show conclude .turn (parseOne s) = _
    rw [parseOne_of_start (by rw [hrb]; rfl), parseCandidate_badLength h5 hl, hrb]
    rfl
  · rw [State.setRet_rb, State.emit_rb, State.dropHead_rb s (by omega), hrb]
    rfl
  · rw [hdrop]
    rfl

end Sys2Proof.Machine
end

section
/-! SUPPORT. The layout of the ring buffer (40_ringbuffer_ops.md R122, R124, R125): where an append puts its bytes
and the run already in the buffer, and what removal at the head does to the cursors; and both answers of the search
(R126). -/

namespace Sys2Proof.Machine

/-! ### Storing bytes -/

/-- Inside the indices written, the string is read; the index is given as an offset into it. -/
theorem Memory.read_writeBytes_inside (m : Memory) (a : Nat) {bs : Bytes} {i : Nat} (h : i < bs.length) :
    (m.writeBytes a bs).read (a + i) = bs.getD i 0 := by
  rw [Memory.read_writeBytes, if_pos (by omega), Nat.add_sub_cancel_left]

theorem Memory.read_writeBytes_outside (m : Memory) {a b : Nat} {bs : Bytes} (h : b < a ∨ a + bs.length ≤ b) :
    (m.writeBytes a bs).read b = m.read b := by
  rw [Memory.read_writeBytes, if_neg (by omega)]

theorem State.rb_getD (s : State) {i : Nat} (h : i < s.rbSize) : s.rb.getD i 0 = s.rbMem.read (s.rbHead + i) := by
  rw [List.getD_eq_getElem?_getD, s.rb_getElem?, if_pos h, Option.getD_some]

theorem State.storeTail_read_stored (s : State) {bs : Bytes} {i : Nat} (h : i < bs.length) :
    (s.storeTail bs).rbMem.read (s.rbTail + i) = bs.getD i 0 :=
  Memory.read_writeBytes_inside s.rbMem s.rbTail h

theorem State.storeTail_read_outside (s : State) {bs : Bytes} {a : Nat} (h : a < s.rbTail ∨ s.rbTail + bs.length ≤ a) :
    (s.storeTail bs).rbMem.read a = s.rbMem.read a :=
  Memory.read_writeBytes_outside s.rbMem h

/-! ### Making room (R122) -/

/-- The run of the buffer moved to offset 0 of a storage `m` of capacity `cap`: what compaction does in place and
growth in a new array. -/
def State.runMovedTo (s : State) (m : Memory) (cap : Nat) : State :=
  s.setRing (m.writeBytes 0 s.rb) 0 s.rbSize cap

theorem State.makeRoom_trailing {s : State} {n : Nat} (h : n ≤ s.rbCap - s.rbTail) : s.makeRoom n = s := if_pos h

theorem State.makeRoom_compacts {s : State} {n : Nat} (h : ¬ n ≤ s.rbCap - s.rbTail) (h' : n ≤ s.rbCap - s.rbSize) :
    s.makeRoom n = s.runMovedTo s.rbMem s.rbCap := by
  rw [State.makeRoom, if_neg h, if_pos h']
  rfl

theorem State.makeRoom_grows {s : State} {n : Nat} (h : ¬ n ≤ s.rbCap - s.rbTail) (h' : ¬ n ≤ s.rbCap - s.rbSize) :
    s.makeRoom n = s.runMovedTo [] (grownCap s.cfg s.rbCap n) := by
  rw [State.makeRoom, if_neg h, if_neg h']
  rfl

theorem State.runMovedTo_read_run (s : State) (m : Memory) (cap : Nat) {i : Nat} (h : i < s.rbSize) :
    (s.runMovedTo m cap).rbMem.read i = s.rbMem.read (s.rbHead + i) := by
  have hi := Memory.read_writeBytes_inside m 0 (s.rb_length.symm ▸ h)
  rw [Nat.zero_add, s.rb_getD h] at hi
  exact hi

theorem State.runMovedTo_read_beyond (s : State) (m : Memory) (cap : Nat) {a : Nat} (h : s.rbSize ≤ a) :
    (s.runMovedTo m cap).rbMem.read a = m.read a :=
  Memory.read_writeBytes_outside m (.inr (by rwa [Nat.zero_add, s.rb_length]))

/-- Bytes stored behind a run that was moved leave it readable from offset 0 on. -/
theorem State.storeTail_runMovedTo_read_run (s : State) (m : Memory) (cap : Nat) (bs : Bytes) {i : Nat}
    (h : i < s.rbSize) : ((s.runMovedTo m cap).storeTail bs).rbMem.read i = s.rbMem.read (s.rbHead + i) :=
  ((s.runMovedTo m cap).storeTail_read_outside (.inl h)).trans (s.runMovedTo_read_run m cap h)

/-- A non-empty append makes room and then stores at the tail. -/
theorem State.pushTail_of_ne_nil {s : State} {bs : Bytes} (h : bs ≠ []) :
    s.pushTail bs = (s.makeRoom bs.length).storeTail bs :=
  if_neg (mt List.length_eq_zero_iff.1 h)

/-! ### Removing at the head (R124, R125) -/

theorem State.dropHead_drains {s : State} (h : s.rbHead ≤ s.rbTail) :
    s.dropHead s.rbSize = { s with rbHead := 0, rbTail := 0 } :=
  if_pos (Nat.add_sub_cancel' h)

/-- In ordered cursors the buffer is empty at (0,0) only (R36). -/
theorem State.cursorsOk.rbSize_eq_zero {s : State} (h : s.cursorsOk) :
    s.rbSize = 0 ↔ s.rbHead = 0 ∧ s.rbTail = 0 := by
  obtain ⟨hle, -, -, hdrained⟩ := h
  unfold State.rbSize
  omega

/-! ### Searching (R126) -/

/-- RB.FIND answers NONE exactly when no offset from `start` on holds the byte. -/
theorem ringFind_eq_none {b : Byte} {start : Nat} {s : State} :
    ringFind b start s = none ↔ ∀ j, start ≤ j → s.rb[j]? ≠ some b := by
  constructor
  · intro hnone j hj hb
    have hmem : b ∈ s.rb.drop start :=
      List.mem_iff_getElem?.2 ⟨j - start, by rwa [List.getElem?_drop, Nat.add_sub_cancel' hj]⟩
    exact scanFor_none hnone hmem
  · intro hnowhere
    by_contra hsome
    obtain ⟨k, hk⟩ := Option.ne_none_iff_exists'.1 hsome
    obtain ⟨hle, -, hb, -⟩ := ringFind_some hk
    exact hnowhere k hle hb

/-- RB.FIND answers `i` exactly when `i` is the smallest offset from `start` on that holds the byte. -/
theorem ringFind_eq_some {b : Byte} {start i : Nat} {s : State} :
    ringFind b start s = some i ↔
      start ≤ i ∧ s.rb[i]? = some b ∧ ∀ j, start ≤ j → j < i → s.rb[j]? ≠ some b := by
  constructor
  · intro h
    obtain ⟨hle, -, hb, hfirst⟩ := ringFind_some h
    exact ⟨hle, hb, hfirst⟩
  · rintro ⟨hle, hb, hfirst⟩
    cases hfind : ringFind b start s with
    | none => exact absurd hb (ringFind_eq_none.1 hfind i hle)
    | some k =>
      obtain ⟨hk, -, hkb, hkfirst⟩ := ringFind_some hfind
      rcases Nat.lt_trichotomy i k with hlt | rfl | hgt
      · exact absurd hb (hkfirst i hle hlt)
      · rfl
      · exact absurd hkb (hfirst k hk hgt)

end Sys2Proof.Machine
end

section
/-! The seven operations of the ring buffer (40_ringbuffer_ops.md R121 to R128). -/

namespace Sys2Proof.Machine

/-- RB.APPEND of what fits is its physical effect, and returns nothing. -/
theorem exec_rbAppend_fits {bytes : Bytes} {s : State} (h : s.cfg.capFits (s.rb.length + bytes.length) = true) :
    exec (.rbAppend bytes) s = .next ((s.pushTail bytes).setRet .none) :=
  congrArg (conclude fun _ => .none) (ringAppend_fits (s.rb_length ▸ h))

/-- Settles O3: whatever the layout, the physical effect extends the logical view. -/
theorem appendExtendsTheBuffer : Obligations.AppendExtendsTheBuffer := by
  unfold Obligations.AppendExtendsTheBuffer
  intro s bytes ⟨hle, _⟩ hfit
  refine ⟨_, exec_rbAppend_fits hfit, ?_, ?_, ?_⟩
  · rw [State.setRet_rb, s.pushTail_rb bytes hle]
  · exact congrArg (State.setRet · .none) (s.pushTail_ringOnly bytes)
  · rintro rfl
    rfl

/-- Settles O4: in each case room is made, which moves the run or not, and the bytes are then stored at the new tail. -/
theorem appendMakesRoomInThreeCases : Obligations.AppendMakesRoomInThreeCases := by
  unfold Obligations.AppendMakesRoomInThreeCases
  intro s bytes _ hfit hne
  refine ⟨_, exec_rbAppend_fits hfit, ?_⟩
  rw [State.pushTail_of_ne_nil hne, State.rb_length]
  split
  case isTrue htrailing =>
    rw [State.makeRoom_trailing htrailing]
    exact ⟨rfl, rfl, rfl, fun _ => s.storeTail_read_stored, fun _ => s.storeTail_read_outside⟩
  case isFalse hfull =>
    split
    case isTrue hfree =>
      rw [State.makeRoom_compacts hfull hfree]
      refine ⟨rfl, rfl, rfl, fun _ => s.storeTail_runMovedTo_read_run _ _ _,
        fun _ => (s.runMovedTo _ _).storeTail_read_stored, fun a ha => ?_⟩
      exact ((s.runMovedTo _ _).storeTail_read_outside (.inr ha)).trans
        (s.runMovedTo_read_beyond _ _ (Nat.le_of_add_right_le ha))
    case isFalse htight =>
      rw [State.makeRoom_grows hfull htight]
      exact ⟨rfl, rfl, rfl, fun _ => s.storeTail_runMovedTo_read_run _ _ _,
        fun _ => (s.runMovedTo _ _).storeTail_read_stored⟩

/-- Settles O7: both operations move the head alone, and the move resets the cursors of a drained buffer. -/
theorem takeAndSkipRemoveFromTheHead : Obligations.TakeAndSkipRemoveFromTheHead := by
  unfold Obligations.TakeAndSkipRemoveFromTheHead
  intro s n ⟨hle, _⟩ hn
  rw [State.rb_length] at hn ⊢
  refine ⟨s.dropHead n, congrArg (conclude .bytes) (ringTake_inside hn),
    congrArg (conclude fun _ => .none) (ringSkip_inside hn), s.dropHead_rb hn, ?_, fun hlt => ?_,
    s.dropHead_eq_cursors n⟩
  · rintro rfl
    rw [State.dropHead_drains hle]
    exact ⟨rfl, rfl⟩
  · rw [State.dropHead_of_lt hlt]
    exact ⟨rfl, rfl⟩

/-- Settles O9: both answers of the search are characterised by what the buffer holds. -/
theorem findAnswersTheFirstMatch : Obligations.FindAnswersTheFirstMatch :=
  fun s b start => ⟨ringFind b start s, rfl, fun _ => ringFind_eq_some, ringFind_eq_none⟩

/-- Settles O5: past `RB_CAP_MAX` the operation ends by raising RingOverflow. -/
theorem appendBeyondCapacityFaults : Obligations.AppendBeyondCapacityFaults := by
  unfold Obligations.AppendBeyondCapacityFaults
  intro s bytes m hm hlt
  rw [State.rb_length] at hlt ⊢
  have hover : s.cfg.capFits (s.rbSize + bytes.length) = false :=
    Bool.eq_false_iff.2 fun hfit => Nat.not_le.2 hlt ((s.cfg.capFits_iff _).1 hfit m hm)
  exact congrArg (conclude fun _ => .none) (ringAppend_overflows hover)

/-- Settles O6: an offset with a byte is inside the buffer, and the byte is read where the run holds it. -/
theorem getPeeksAtTheOffset : Obligations.GetPeeksAtTheOffset := by
  unfold Obligations.GetPeeksAtTheOffset
  intro s i b hb
  rw [s.rb_getElem?, Option.ite_none_right_eq_some] at hb
  obtain ⟨hi, hread⟩ := hb
  rw [← Option.some.inj hread]
  exact congrArg (conclude .byte) (ringGet_inside hi)

/-- Settles O8: beyond the buffer each of the three operations ends by raising BoundsError. -/
theorem outOfRangeAccessFaults : Obligations.OutOfRangeAccessFaults := by
  unfold Obligations.OutOfRangeAccessFaults
  intro s n
  rw [State.rb_length]
  exact ⟨fun h => congrArg (conclude .byte) (ringGet_outside h),
    fun h => ⟨congrArg (conclude .bytes) (ringTake_outside h),
      congrArg (conclude fun _ => .none) (ringSkip_outside h)⟩⟩

/-- Settles O10: the length of the logical view is the distance of the cursors. -/
theorem sizeAndIsEmptyTellTheLength : Obligations.SizeAndIsEmptyTellTheLength := by
  unfold Obligations.SizeAndIsEmptyTellTheLength
  intro s
  simp only [State.rb_length, State.rb_eq_nil]
  exact ⟨rfl, rfl, rfl, State.cursorsOk.rbSize_eq_zero⟩

end Sys2Proof.Machine
end

section
/-! SUPPORT. The CRC register (41_codec_ops.md R140 to R142): rounds are linear over exclusive-or and lose nothing, and
the fold over bytes is a plain shift register fed their bits. -/

open Sys2Proof.Claims

namespace Sys2Proof

/-! ### Rounds (R140) -/

theorem crcRound_xor (x y : Byte) : crcRound (x ^^^ y) = crcRound x ^^^ crcRound y := by
  unfold crcRound
  rw [BitVec.getLsbD_xor, BitVec.shiftLeft_xor_distrib]
  cases x.getLsbD 7 <;> cases y.getLsbD 7
  case true.false => simp; ac_rfl
  all_goals simp [BitVec.xor_assoc]

/-- A round that ends at 0 began at 0: the polynomial's bit 0 shows whether it was fed back. -/
theorem crcRound_eq_zero {c : Byte} (h : crcRound c = 0#8) : c = 0#8 := by
  unfold crcRound at h
  simp only [getLsbD_seven, decide_eq_true_eq] at h
  split at h
  · have := BitVec.xor_eq_zero_iff.1 h
    bv_omega
  · bv_omega

theorem crcRound_injective : Function.Injective crcRound := by
  intro x y h
  rw [← BitVec.xor_eq_zero_iff, ← crcRound_xor] at h
  exact BitVec.xor_eq_zero_iff.1 (crcRound_eq_zero h)

theorem crcRounds_eq_iterate (n : Nat) : crcRounds n = crcRound^[n] := by
  induction n with
  | zero => rfl
  | succ n ih =>
    funext c
    rw [crcRounds, ih]
    rfl

theorem crcRounds_xor (n : Nat) (x y : Byte) : crcRounds n (x ^^^ y) = crcRounds n x ^^^ crcRounds n y := by
  induction n generalizing x y with
  | zero => rfl
  | succ n ih =>
    rw [crcRounds, crcRound_xor, ih]
    rfl

theorem r8_xor (x y : Byte) : r8 (x ^^^ y) = r8 x ^^^ r8 y := crcRounds_xor 8 x y

theorem r8_injective : Function.Injective r8 := by
  unfold r8
  rw [crcRounds_eq_iterate]
  exact crcRound_injective.iterate 8

/-! ### The shift register (R142 (a)) -/

/-- A clock takes in the top bit of `y` as a round on `x` would: that bit in the register cancels the one fed. -/
theorem serialClock_xor_msb (x y : Byte) : serialClock (x ^^^ y) y.msb = crcRound x ^^^ (y <<< 1) := by
  have hbit : x.getLsbD 7 = x.msb := rfl
  unfold serialClock crcRound
  rw [hbit, BitVec.msb_xor, BitVec.shiftLeft_xor_distrib]
  cases x.msb <;> cases y.msb <;> simp <;> ac_rfl

/-- The register fed the first `n` bits of a byte: `n` rounds on the register with the byte folded in, and the bits
still to come at its top. -/
theorem foldl_serialClock_bits (c b : Byte) (n : Nat) :
    ((List.range n).map fun k => b.getMsbD k).foldl serialClock c = crcRounds n (c ^^^ b) ^^^ (b <<< n) := by
  induction n with
  | zero => simp [crcRounds]
  | succ n ih =>
    rw [List.range_succ, List.map_append, List.foldl_append, ih, List.map_singleton, List.foldl_cons, List.foldl_nil,
      ← BitVec.msb_shiftLeft, serialClock_xor_msb, BitVec.shiftLeft_add, crcRounds_eq_iterate, crcRounds_eq_iterate,
      Function.iterate_succ_apply']

theorem foldl_serialClock_bitsOf (c b : Byte) : (bitsOf b).foldl serialClock c = r8 (c ^^^ b) := by
  rw [bitsOf, foldl_serialClock_bits, BitVec.shiftLeft_eq_zero (Nat.le_refl 8), BitVec.xor_zero, r8]

theorem serialCrc_eq_crcFold (c : Byte) (bs : Bytes) : serialCrc c bs = crcFold c bs := by
  induction bs generalizing c with
  | nil => rfl
  | cons b t ih =>
    rw [serialCrc, List.flatMap_cons, List.foldl_append, foldl_serialClock_bitsOf, crcFold]
    exact ih _

/-- The packet id is folded in like a first byte of data (R141). -/
theorem crc8_eq_crcFold (id : Byte) (data : Bytes) : crc8 id data = crcFold 0xFF#8 (id :: data) := rfl

/-! ### What the fold keeps apart (R142 (b)) -/

theorem crcFold_xor (x y : Byte) {d e : Bytes} (h : d.length = e.length) :
    crcFold x d ^^^ crcFold y e = crcFold (x ^^^ y) (List.zipWith (· ^^^ ·) d e) := by
  induction d generalizing x y e with
  | nil =>
    obtain rfl := List.length_eq_zero_iff.1 h.symm
    rfl
  | cons b t ih =>
    obtain ⟨b', t', rfl⟩ := List.exists_cons_of_length_eq_add_one h.symm
    rw [crcFold, crcFold, ih _ _ (Nat.succ.inj h), ← r8_xor, List.zipWith_cons_cons, crcFold]
    congr 2
    ac_rfl

theorem crcFold_append (c : Byte) (d e : Bytes) : crcFold c (d ++ e) = crcFold (crcFold c d) e := by
  induction d generalizing c with
  | nil => rfl
  | cons b t ih => exact ih _

/-- Folding in the same bytes keeps different registers different. -/
theorem crcFold_injective (d : Bytes) : Function.Injective (crcFold · d) := by
  induction d with
  | nil => exact Function.injective_id
  | cons b t ih =>
    intro x y h
    exact (BitVec.xor_left_inj b).1 (r8_injective (ih h))

/-- Two strings that differ in one byte fold to different registers. -/
theorem crcFold_ne_of_byte_ne (c : Byte) {b b' : Byte} (h : b ≠ b') (d e : Bytes) :
    crcFold c (d ++ b :: e) ≠ crcFold c (d ++ b' :: e) := by
  rw [crcFold_append, crcFold_append]
  intro heq
  exact h ((BitVec.xor_right_inj _).1 (r8_injective (crcFold_injective e heq)))

end Sys2Proof
end

section
/-! CRC8 (41_codec_ops.md R141, R142). -/

open Sys2Proof.Claims

namespace Sys2Proof.Machine

/-- Settles O11: the fold over id and data is the shift register fed their bits. -/
theorem crcIsThePlainShiftRegister : Obligations.CrcIsThePlainShiftRegister := by
  unfold Obligations.CrcIsThePlainShiftRegister
  intro s id data
  rw [serialCrc_eq_crcFold, ← crc8_eq_crcFold]
  rfl

/-- Settles O12: the fold is linear, and a byte folded in, the id or one of the data, can be told from every other. -/
theorem crcIsAffineAndDetectsOneByte : Obligations.CrcIsAffineAndDetectsOneByte := by
  unfold Obligations.CrcIsAffineAndDetectsOneByte
  refine ⟨fun id d e hl => ?_, fun id id' d hid => ?_, fun id b b' d e hb => ?_⟩
  · rw [crc8, crc8, crcFold_xor _ _ hl, BitVec.xor_self, serialCrc_eq_crcFold]
  · exact crcFold_ne_of_byte_ne 0xFF#8 hid [] d
  · exact crcFold_ne_of_byte_ne 0xFF#8 hb (id :: d) e

end Sys2Proof.Machine
end

section
/-! SUPPORT. UNESCAPE as the left-to-right reading of R145, and UNWRAP by what a frame's body reads as
(41_codec_ops.md R149). -/

open Sys2Proof.Claims

namespace Sys2Proof

/-! ### Reading escaped bytes left to right (R86, R145) -/

theorem tokenByte_eq_some {c : Params} {k v : Byte} (h : tokenByte c k = some v) :
    (k = c.tstart ∧ v = c.start) ∨ (k = c.tesc ∧ v = c.esc) := by
  unfold tokenByte at h
  split at h
  · exact .inl ⟨‹_›, (Option.some.inj h).symm⟩
  · split at h
    · exact .inr ⟨‹_›, (Option.some.inj h).symm⟩
    · cases h

theorem unescapes_of_unescape {c : Params} {p s : Bytes} (h : unescape c p = some s) : Unescapes c p s := by
  induction p using unescape.induct c generalizing s with
  | case1 => cases h; exact .done
  | case2 => simp [unescape] at h
  | case3 b hb =>
    rw [unescape, if_neg hb] at h
    cases h
    exact .plain hb .done
  | case4 k t v hk ih =>
    simp only [unescape, if_true, hk] at h
    obtain ⟨r, hr, rfl⟩ := Option.map_eq_some_iff.1 h
    obtain ⟨rfl, rfl⟩ | ⟨rfl, rfl⟩ := tokenByte_eq_some hk
    · exact .startToken (ih hr)
    · exact .escToken (ih hr)
  | case5 k t hk => simp [unescape, hk] at h
  | case6 b k t hb ih =>
    rw [unescape, if_neg hb] at h
    obtain ⟨r, hr, rfl⟩ := Option.map_eq_some_iff.1 h
    exact .plain hb (ih hr)

theorem unescape_plain {c : Params} {b : Byte} (h : b ≠ c.esc) (p : Bytes) :
    unescape c (b :: p) = (unescape c p).map (b :: ·) := by
  cases p <;> simp [unescape, h]

theorem unescape_of_unescapes {c : Params} (hv : c.Valid) {p s : Bytes} (h : Unescapes c p s) :
    unescape c p = some s := by
  obtain ⟨-, -, -, -, -, htokens⟩ := hv.markers_ne
  induction h with
  | done => rfl
  | startToken _ ih => simp [unescape, tokenByte, ih]
  | escToken _ ih => simp [unescape, tokenByte, htokens.symm, ih]
  | plain hb _ ih => rw [unescape_plain hb, ih]; rfl

/-- UNESCAPE answers exactly what the string reads as (R145). -/
theorem unescape_eq_some_iff {c : Params} (hv : c.Valid) {p s : Bytes} : unescape c p = some s ↔ Unescapes c p s :=
  ⟨unescapes_of_unescape, unescape_of_unescapes hv⟩

theorem unescape_eq_none {c : Params} {p : Bytes} (h : ∀ s, ¬ Unescapes c p s) : unescape c p = none :=
  Option.eq_none_iff_forall_ne_some.2 fun s hs => h s (unescapes_of_unescape hs)

/-! ### A frame by its header and body (R149) -/

section
variable {c : Params} {p : Bytes} (b0 l0 l1 id : Byte)

theorem unwrap_of_badEscape (h : unescape c p = none) : unwrap c (b0 :: l0 :: l1 :: id :: p) = .badEscape id := by
  simp [unwrap, frameByte, h]

/-- Of a body `payload ++ [crc]` the length and the CRC are checked, both on the logical bytes. -/
theorem unwrap_of_unescape {payload : Bytes} {crc : Byte} (h : unescape c p = some (payload ++ [crc])) :
    unwrap c (b0 :: l0 :: l1 :: id :: p) =
      if payload.length = l0.toNat % 128 + 128 * l1.toNat ∧ crc8 id payload = crc then .ok id payload
      else .crcMismatch id := by
  rw [← declaredLen_eq]
  by_cases hl : payload.length = declaredLen l0 l1
  · simp [unwrap, frameByte, h, ← hl]
  · simp [unwrap, frameByte, h, hl]

/-- An empty body has no CRC byte, so its length is none that a header declares. -/
theorem unwrap_of_emptyBody (h : unescape c p = some []) :
    unwrap c (b0 :: l0 :: l1 :: id :: p) = .crcMismatch id := by
  simp [unwrap, frameByte, h]

end

/-- After the header a frame holds no raw `START` (R146 (b)). -/
theorem frameBytes_getElem?_ne_start {c : Params} (hv : c.Valid) (id : Byte) (payload : Bytes) (crc : Byte) {j : Nat}
    (hj : 4 ≤ j) : (frameBytes c id payload crc)[j]? ≠ some c.start := by
  rw [frameBytes_body, List.getElem?_append_right hj]
  exact fun h => start_notMem_escape hv _ (List.mem_of_getElem? h)

end Sys2Proof
end

section
/-! The escape codec, wrapping and unwrapping as operations (41_codec_ops.md R145 to R153). -/

open Sys2Proof.Claims

namespace Sys2Proof.Machine

/-- Settles O14: the scan's answers are the readings. -/
theorem unescapeReadsLeftToRight : Obligations.UnescapeReadsLeftToRight := by
  unfold Obligations.UnescapeReadsLeftToRight
  exact fun s p hv => ⟨unescape s.cfg p, rfl, fun _ => unescape_eq_some_iff hv⟩

/-- Settles O18: by what the body reads as: nothing, a payload and its CRC byte, or the empty string. -/
theorem unwrapChecksEscapesThenCrc : Obligations.UnwrapChecksEscapesThenCrc := by
  unfold Obligations.UnwrapChecksEscapesThenCrc
  intro s b0 l0 l1 id p hv
  refine ⟨fun h => ?_, fun payload crc h => ?_, fun h => ?_⟩
  · rw [← unwrap_of_badEscape b0 l0 l1 id (unescape_eq_none h)]
    rfl
  · rw [← unwrap_of_unescape b0 l0 l1 id (unescape_of_unescapes hv h)]
    rfl
  · rw [← unwrap_of_emptyBody b0 l0 l1 id (unescape_of_unescapes hv h)]
    rfl

/-! ### Wrapping under a given id (R148, R153) -/

section
variable {s : State} {payload : Bytes} (id : Byte)

theorem exec_wrapId_fits (h : payload.length ≤ s.cfg.maxLen.val) :
    exec (.wrapId id payload) s = .next (s.setRet (.bytes (wrapFrame s.cfg id payload))) :=
  congrArg (conclude .bytes) (if_neg (Nat.not_lt.2 h))

theorem exec_wrapId_tooLong (h : s.cfg.maxLen.val < payload.length) :
    exec (.wrapId id payload) s = .next ((s.emit (.refused .wrapId (.lengthError payload.length))).setRet
      (.refused (.lengthError payload.length))) :=
  congrArg (conclude .bytes) (if_pos h)

end

/-- Settles O16: the length fields of R82 split the length in 7 and 8 bits. -/
theorem wrapIdBuildsTheFrame : Obligations.WrapIdBuildsTheFrame := by
  unfold Obligations.WrapIdBuildsTheFrame
  intro s id payload
  refine ⟨fun hl => ⟨lenLow payload.length, lenHigh payload.length, exec_wrapId_fits id hl, lenLow_toNat _, ?_⟩,
    exec_wrapId_tooLong id⟩
  exact lenHigh_toNat (Nat.lt_of_le_of_lt hl s.cfg.maxLen.isLt)

/-- Settles O17: the span and the reading of a frame are those of its escaped body, which holds no raw `START`. -/
theorem unwrapUndoesWrap : Obligations.UnwrapUndoesWrap := by
  unfold Obligations.UnwrapUndoesWrap
  intro s id payload hv hl
  refine ⟨wrapFrame s.cfg id payload, exec_wrapId_fits id hl, ?_, ?_, rfl,
    fun j => frameBytes_getElem?_ne_start hv id payload _⟩
  · have hspan := physSpan_frameBytes s.cfg id payload (crc8 id payload) []
    rw [List.append_nil] at hspan
    exact congrArg (fun n => finish s (.span n)) hspan
  · rw [← unwrap_wrapFrame hv id hl]
    rfl

/-! ### Taking ids (R150 to R152) -/

theorem nextId_val (k : IssuedId) : (nextId k).val = (k.val + 1) % 224 := rfl

/-- From 223 the counter goes to 0, never to 224. -/
theorem nextId_wraps (k : IssuedId) : (nextId k).val = if k.val = 223 then 0 else k.val + 1 := by
  have hlt : k.val < 224 := k.isLt
  rw [nextId_val]
  split <;> omega

/-- Settles O19: each allocation is one update of its counter. -/
theorem allocationAdvancesModulo224 : Obligations.AllocationAdvancesModulo224 := by
  unfold Obligations.AllocationAdvancesModulo224
  exact fun s => ⟨⟨_, rfl, rfl, nextId_wraps s.pidCtr, rfl⟩, ⟨_, rfl, rfl, nextId_wraps s.tidCtr, rfl⟩⟩

section
variable {s : State} {payload : Bytes}

theorem exec_wrapNext_fits (h : payload.length ≤ s.cfg.maxLen.val) :
    exec (.wrapNext payload) s = .next ((allocPid s).1.setRet
      (.wrapped (idByte s.pidCtr) (wrapFrame s.cfg (idByte s.pidCtr) payload))) :=
  congrArg (conclude fun p : Byte × Bytes => .wrapped p.1 p.2) (if_neg (Nat.not_lt.2 h))

theorem exec_wrapNext_tooLong (h : s.cfg.maxLen.val < payload.length) :
    exec (.wrapNext payload) s = .next ((s.emit (.refused .wrapNext (.lengthError payload.length))).setRet
      (.refused (.lengthError payload.length))) :=
  congrArg (conclude fun p : Byte × Bytes => .wrapped p.1 p.2) (if_pos h)

end

/-- Settles O20: the length is checked before the counter is touched. -/
theorem wrapNextTakesTheNextId : Obligations.WrapNextTakesTheNextId := by
  unfold Obligations.WrapNextTakesTheNextId
  intro s payload
  exact ⟨fun h => ⟨_, exec_wrapNext_fits h, rfl, nextId_val s.pidCtr, rfl⟩, exec_wrapNext_tooLong⟩

/-- `n` WRAP_NEXTs return the `n` ids from the counter on, modulo 224, and leave the counter after the last. -/
theorem wrapTimes_ids {payload : Bytes} (n : Nat) {s : State} (h : payload.length ≤ s.cfg.maxLen.val) :
    ∃ t, wrapTimes payload n s =
        some ((List.range n).map fun k => BitVec.ofNat 8 ((s.pidCtr.val + k) % 224), t) ∧
      t.pidCtr.val = (s.pidCtr.val + n) % 224 := by
  induction n generalizing s with
  | zero => exact ⟨s, rfl, (Nat.mod_eq_of_lt s.pidCtr.isLt).symm⟩
  | succ n ih =>
    have hlt := s.pidCtr.isLt
    obtain ⟨t, hwraps, hctr⟩ := ih (s := (allocPid s).1.setRet
      (.wrapped (idByte s.pidCtr) (wrapFrame s.cfg (idByte s.pidCtr) payload))) h
    have hadd (k : Nat) : ((nextId s.pidCtr).val + k) % 224 = (s.pidCtr.val + (k + 1)) % 224 := by
      rw [nextId_val]
      omega
    simp only [State.setRet_pidCtr, allocPid_pidCtr, hadd] at hwraps hctr
    refine ⟨t, ?_, hctr⟩
    rw [wrapTimes, exec_wrapNext_fits h]
    simp only [State.setRet_ret, hwraps, List.range_succ_eq_map, List.map_cons, List.map_map, Function.comp_def,
      Nat.add_zero, Nat.mod_eq_of_lt hlt, Nat.succ_eq_add_one]
    rfl

/-- Settles O21: after 224 the counter is back where it began. -/
theorem consecutiveWrapsCycleThroughAllIds : Obligations.ConsecutiveWrapsCycleThroughAllIds := by
  unfold Obligations.ConsecutiveWrapsCycleThroughAllIds
  intro s payload h
  obtain ⟨t, hwraps, hctr⟩ := wrapTimes_ids 224 h
  refine ⟨_, t, hwraps, Fin.ext ?_, rfl⟩
  rw [hctr, Nat.add_mod_right, Nat.mod_eq_of_lt s.pidCtr.isLt]

end Sys2Proof.Machine
end

section
/-! SUPPORT. COMPLETE as one update (43_receive_path.md R193), and DISPATCH of RESULT when `MAX_LEN` cannot hold its
acknowledgement (R195, R211). -/

open Sys2Proof.Claims

namespace Sys2Proof.Machine

theorem State.setPend_of_clear {s : State} {k : Nat} (h : s.pendAt k = false) : s.setPend k false = s := by
  have hpend : s.pend.setIfInBounds k false = s.pend := by
    ext j hj
    rw [Vector.getElem_setIfInBounds]
    split
    case isTrue hk =>
      subst hk
      simpa [State.pendAt, hj] using h.symm
    case isFalse => rfl
  rw [State.setPend, hpend]

/-- Clearing an entry of `PEND` leaves the others; a key of 224..255 has none. -/
theorem State.pendAt_setPend_false (s : State) (k j : Nat) : (s.setPend k false).pendAt j = (s.pendAt j && j != k) := by
  by_cases hk : k < 224
  · rw [State.pendAt_setPend s hk]
    split <;> simp [*]
  · have hhigh := s.pendAt_high (Nat.not_lt.1 hk)
    rw [State.setPend_of_clear hhigh]
    by_cases hj : j = k <;> simp [hj, hhigh]

/-- COMPLETE clears the entry of the key, which may be clear already, and logs whether it was (R193). -/
theorem completeTask_eq (key status : Byte) (rest : Bytes) (s : State) : completeTask key status rest s =
    (s.setPend key.toNat false).emit (completionEvent s key status rest) := by
  cases h : s.pendAt key.toNat with
  | true => simp [completeTask_pending h, completionEvent, h]
  | false => simp [completeTask_unmatched h, completionEvent, h, State.setPend_of_clear h]

/-- RESULT is none of the asynchronous statuses (K4). -/
theorem isAsync_stResult {c : Params} (h : c.Valid) : isAsync c c.stResult = false := by
  obtain ⟨-, -, -, hst, -, -⟩ := c.valid_iff.1 h
  simp [Params.statuses] at hst
  simp only [isAsync, Bool.or_eq_false_iff, beq_eq_false_iff_ne]
  tauto

/-- DISPATCH goes on without the acknowledgement it may not send (log 16). -/
theorem dispatchPayload_result_unacknowledged {s : State} {key : Byte} {tail : Bytes} (hv : s.cfg.Valid)
    (hl : s.cfg.maxLen.val < 2) (hkey : key ≠ s.cfg.sentinelId) :
    dispatchPayload key s.cfg.stResult tail s =
      ((completeTask key s.cfg.stResult tail s).emit (.refused .wrapId (.lengthError 2)), .ok .cont) := by
  have hroute : route s.cfg key s.cfg.stResult tail = some (key, tail) := by simp [route, isAsync_stResult hv]
  have hcompletes : routeStatus key s.cfg.stResult tail s = completeTask key s.cfg.stResult tail s :=
    if_pos (by simp [isCompleting, isTerminal])
  have hack : needsAck s.cfg key s.cfg.stResult = true := by simp [needsAck, isTerminal, hkey]
  have hrefused : sendAck key (completeTask key s.cfg.stResult tail s) = _ :=
    sendUnstored_tooLong (by rw [completeTask_eq]; exact hl)
  simp only [dispatchPayload, hroute, hcompletes, hack, if_true, hrefused]
  rfl

end Sys2Proof.Machine
end

section
/-! Payloads that `MAX_LEN` cannot hold (41_codec_ops.md R148, 60_exceptions.md R211). -/

namespace Sys2Proof.Machine

/-- An operation that only sends an envelope is refused when `MAX_LEN` cannot hold it. -/
theorem conclude_sendUnstored_tooLong {s : State} {env : Bytes} (h : s.cfg.maxLen.val < env.length) :
    conclude (fun _ => .none) (sendUnstored env s) = .next ((s.emit (.refused .wrapId (.lengthError env.length))).setRet
      (.refused (.lengthError env.length))) :=
  congrArg (conclude fun _ => .none) (sendUnstored_tooLong h)

/-- Settles O23: the length requirement comes before the id in each, and DISPATCH ignores the refusal. -/
theorem overlongPayloadsAreRefused : Obligations.OverlongPayloadsAreRefused := by
  unfold Obligations.OverlongPayloadsAreRefused
  intro s key flags tid user tail refused
  refine ⟨fun h => congrArg (conclude fun _ => .none) (if_pos h), fun h => ?_, fun h => ?_⟩
  · have habort := conclude_sendUnstored_tooLong (env := abortEnvelope s.cfg) h
    exact ⟨habort, habort⟩
  · have hack := conclude_sendUnstored_tooLong (env := ackEnvelope s.cfg key) h
    refine ⟨hack, hack, fun hv hkey =>
      ⟨_, congrArg (conclude .turn) (dispatchPayload_result_unacknowledged hv h hkey), ?_⟩⟩
    rw [completeTask_eq]
    exact ⟨s.pendAt_setPend_false key.toNat, by simp [State.setRet, State.emit, State.setPend]⟩

end Sys2Proof.Machine
end

section
/-! SUPPORT. The two tables as their four operations leave them (42_transmit_ops.md R163 to R166). -/

namespace Sys2Proof.Machine

/-- Only a key of 0..223 holds a frame (R27). -/
theorem State.lt_of_histAt {s : State} {k : Nat} {f : Bytes} (h : s.histAt k = some f) : k < 224 := by
  by_contra hk
  simp [s.histAt_high (Nat.not_lt.1 hk)] at h

/-- HIST.TAKE answers what the entry held (R164). -/
@[simp] theorem histTake_snd (id : Byte) (s : State) : (histTake id s).2 = s.histAt id.toNat := by
  cases h : s.histAt id.toNat with
  | none => rw [histTake_none h]
  | some f => rw [histTake_some h]

/-- HIST.TAKE leaves its entry empty and the others as they were (R164). -/
theorem histTake_histAt (id : Byte) (s : State) (k : Nat) :
    (histTake id s).1.histAt k = if k = id.toNat then none else s.histAt k := by
  cases h : s.histAt id.toNat with
  | none =>
    rw [histTake_none h]
    split
    · simp [*]
    · rfl
  | some f =>
    rw [histTake_some h]
    exact s.histAt_setHist (State.lt_of_histAt h) none k

theorem histTake_frame (id : Byte) (s : State) : (histTake id s).1 = { s with hist := (histTake id s).1.hist } := by
  unfold histTake
  split <;> rfl

theorem pendPut_pendAt (tid : IssuedId) (s : State) (k : Nat) :
    (pendPut tid s).pendAt k = (s.pendAt k || k == tid.val) := by
  rw [pendPut_eq]
  refine (State.pendAt_setPend _ tid.isLt true k).trans ?_
  by_cases hk : k = tid.val <;> simp [hk]

/-- The overrun flag is set by an entry still pending, and by nothing else (R165). -/
theorem pendPut_faults (tid : IssuedId) (s : State) :
    (pendPut tid s).faults = if s.pendAt tid.val then s.faults ||| fPendOverrun else s.faults := by
  unfold pendPut
  split <;> rfl

theorem pendPut_frame (tid : IssuedId) (s : State) :
    pendPut tid s = { s with pend := (pendPut tid s).pend, faults := (pendPut tid s).faults } := by
  rw [pendPut_eq]
  rfl

/-- PEND.TAKE clears its entry, which may be clear already, and answers what it was (R166). -/
theorem pendTake_eq (key : Byte) (s : State) : pendTake key s = (s.setPend key.toNat false, s.pendAt key.toNat) := by
  cases h : s.pendAt key.toNat with
  | true => rw [pendTake_set h]
  | false => rw [pendTake_clear h, State.setPend_of_clear h]

end Sys2Proof.Machine
end

section
/-! The host operations, the table operations and the frames the receive path sends (42_transmit_ops.md R160
to R169). -/

namespace Sys2Proof.Machine

/-! ### The tables -/

/-- Settles O29: both operations touch the one entry of their key, and a key above 223 has none. -/
theorem historyIsKeyedByPacketId : Obligations.HistoryIsKeyedByPacketId := by
  unfold Obligations.HistoryIsKeyedByPacketId
  intro s pid f id
  refine ⟨⟨_, rfl, s.histAt_setHist pid.isLt (some f), rfl⟩, ⟨_, rfl, ?_, histTake_histAt id s, ?_⟩⟩
  · rw [State.setRet_ret, histTake_snd]
    split
    · rw [s.histAt_high (by omega)]
    · rfl
  · rw [histTake_frame]
    rfl

/-- Settles O30: PEND.TAKE of a key above 223 answers the entry it does not find. -/
theorem pendingEntriesAreTestedAndCleared : Obligations.PendingEntriesAreTestedAndCleared := by
  unfold Obligations.PendingEntriesAreTestedAndCleared
  intro s tid key
  refine ⟨⟨_, rfl, pendPut_pendAt tid s, pendPut_faults tid s, ?_⟩, ?_⟩
  · rw [pendPut_frame]
    rfl
  · show ∃ t, finish (pendTake key s).1 (.flag (pendTake key s).2) = .next t ∧ _
    rw [pendTake_eq]
    refine ⟨_, rfl, ?_, s.pendAt_setPend_false key.toNat, rfl⟩
    rw [State.setRet_ret]
    split
    · rw [s.pendAt_high (by omega)]
    · rfl

/-! ### Envelopes and frames that are not stored -/

/-- An operation that only sends an envelope `MAX_LEN` can hold takes the next packet id and writes the frame. -/
theorem conclude_sendUnstored_taken {s : State} {env : Bytes} (hw : s.writable) (h : env.length ≤ s.cfg.maxLen.val) :
    conclude (fun _ => .none) (sendUnstored env s) =
      .next (((allocPid s).1.wrote (wrapFrame s.cfg (idByte s.pidCtr) env)).setRet .none) := by
  have hw' : (allocPid s).1.writable := hw
  rw [sendUnstored_fits h, txWrite_taken hw', conclude_ok]

/-- Settles O25: nothing but ALLOC_PID and the write touches the state. -/
theorem abortSendsOneUnstoredFrame : Obligations.AbortSendsOneUnstoredFrame := by
  unfold Obligations.AbortSendsOneUnstoredFrame
  exact fun s hw hl => ⟨_, conclude_sendUnstored_taken (env := abortEnvelope s.cfg) hw hl, rfl, rfl⟩

/-- Settles O27: an acknowledgement goes the way of an abort, under the next packet id and not stored. -/
theorem acknowledgementTakesTheNextId : Obligations.AcknowledgementTakesTheNextId := by
  unfold Obligations.AcknowledgementTakesTheNextId
  exact fun s key hw hl => ⟨_, conclude_sendUnstored_taken (env := ackEnvelope s.cfg key) hw hl, rfl, rfl⟩

/-- Settles O26: an empty payload escapes to nothing, so the frame is its header and the escaped CRC. -/
theorem negativeFrameEchoesTheId : Obligations.NegativeFrameEchoesTheId := by
  unfold Obligations.NegativeFrameEchoesTheId
  exact fun s id hw => congrArg (conclude fun _ => .none) (txWrite_taken (f := wrapFrame s.cfg id []) hw)

/-- Settles O28: the stored frame goes out as it is, and only its own entry is emptied. -/
theorem retransmitResendsOnce : Obligations.RetransmitResendsOnce := by
  unfold Obligations.RetransmitResendsOnce
  intro s id hw
  refine ⟨fun f hf => ⟨_, congrArg (conclude fun _ => .none) (resend_taken hf hw), ?_, rfl⟩,
    fun hnone => congrArg (conclude fun _ => .none) (resend_unknown hnone)⟩
  exact s.histAt_setHist (State.lt_of_histAt hf) none

/-! ### SEND (R160) -/

/-- The three flags sent are the operand's low bits, the reserved bits 0 (R90). -/
theorem flagsByte_sentFlags (flags : Byte) : flagsByte (sentFlags flags) = flags &&& 0x07#8 := by
  apply BitVec.eq_of_toNat_eq
  rw [flagsByte, sentFlags, BitVec.toNat_setWidth, BitVec.toNat_setWidth, BitVec.toNat_and]
  have hmask : flags.toNat &&& 7 = flags.toNat % 8 := Nat.and_two_pow_sub_one_eq_mod flags.toNat 3
  show flags.toNat % 8 % 256 = flags.toNat &&& 7
  omega

theorem exec_send_fits {flags : Byte} {user : Bytes} {s : State} (hl : 3 + user.length ≤ s.cfg.maxLen.val) :
    exec (.send flags user) s =
      conclude (fun _ => .number s.tidCtr.val) (sendAddTask (sentFlags flags) s.tidCtr user (allocTid s).1) :=
  congrArg (conclude fun _ => .number s.tidCtr.val) (if_neg (Nat.not_lt.2 hl))

/-- Settles O22: ALLOC_TID first, then the envelope is registered under both ids and written. -/
theorem sendSubmitsOneTask : Obligations.SendSubmitsOneTask := by
  unfold Obligations.SendSubmitsOneTask
  intro s flags user
  refine ⟨fun hw hl => ?_, fun hl => congrArg (conclude fun _ => .number s.tidCtr.val) (if_pos hl)⟩
  have hw' : (allocTid s).1.writable := hw
  rw [← flagsByte_sentFlags, exec_send_fits hl, sendAddTask_taken hw', State.registered, pendPut_eq]
  refine ⟨_, rfl, rfl, rfl, rfl, rfl, fun k => ?_, fun k => ?_, ?_, rfl⟩
  · exact s.histAt_setHist s.pidCtr.isLt _ k
  · rw [← pendPut_pendAt s.tidCtr s k, pendPut_eq]
    rfl
  · refine Eq.trans ?_ (pendPut_faults s.tidCtr s)
    rw [pendPut_eq]
    rfl

end Sys2Proof.Machine
end

section
/-! SUPPORT. What an operation does by the transport's answer to its write (42_transmit_ops.md R170, log 8): at most one
frame is written, nothing before the write looks at the transport, and RETRANSMIT alone logs anything after it. -/

open Sys2Proof.Claims

namespace Sys2Proof.Machine

/-! ### The transport's answers -/

/-- The state with other answers of the transport to come. -/
def State.withLink (s : State) (l : List Bool) : State := { s with link := l }

@[simp] theorem State.withLink_cfg (s : State) (l : List Bool) : (s.withLink l).cfg = s.cfg := rfl
@[simp] theorem State.withLink_rbSize (s : State) (l : List Bool) : (s.withLink l).rbSize = s.rbSize := rfl
@[simp] theorem State.withLink_rb (s : State) (l : List Bool) : (s.withLink l).rb = s.rb := rfl
@[simp] theorem State.withLink_ringFind (b : Byte) (start : Nat) (s : State) (l : List Bool) :
    ringFind b start (s.withLink l) = ringFind b start s := rfl
@[simp] theorem State.withLink_emit (s : State) (l : List Bool) (e : Event) :
    (s.withLink l).emit e = (s.emit e).withLink l := rfl

theorem State.withLink_true_writable (s : State) (l : List Bool) : (s.withLink (true :: l)).writable := by
  simp [State.writable, State.withLink]

theorem State.withLink_false_not_writable (s : State) (l : List Bool) : ¬ (s.withLink (false :: l)).writable := by
  simp [State.writable, State.withLink]

@[simp] theorem State.withLink_dropHead (s : State) (l : List Bool) (n : Nat) :
    (s.withLink l).dropHead n = (s.dropHead n).withLink l := by
  show (if s.rbHead + n = s.rbTail then _ else _) = _
  unfold State.dropHead
  split <;> rfl

@[simp] theorem State.withLink_makeRoom (s : State) (l : List Bool) (n : Nat) :
    (s.withLink l).makeRoom n = (s.makeRoom n).withLink l := by
  show (if n ≤ s.rbCap - s.rbTail then _ else if n ≤ s.rbCap - s.rbSize then _ else _) = _
  unfold State.makeRoom
  split
  · rfl
  · split <;> rfl

@[simp] theorem State.withLink_pushTail (s : State) (l : List Bool) (bs : Bytes) :
    (s.withLink l).pushTail bs = (s.pushTail bs).withLink l := by
  unfold State.pushTail
  split
  · rfl
  · rw [State.withLink_makeRoom]
    rfl

@[simp] theorem pendPut_withLink (tid : IssuedId) (s : State) (l : List Bool) :
    pendPut tid (s.withLink l) = (pendPut tid s).withLink l := by
  rw [pendPut_eq, pendPut_eq]
  rfl

@[simp] theorem histTake_withLink (id : Byte) (s : State) (l : List Bool) :
    histTake id (s.withLink l) = ((histTake id s).1.withLink l, s.histAt id.toNat) := by
  cases h : s.histAt id.toNat with
  | none => rw [histTake_none h, histTake_none (s := s.withLink l) h]
  | some f =>
    rw [histTake_some h, histTake_some (s := s.withLink l) h]
    rfl

@[simp] theorem completeTask_withLink (key status : Byte) (rest : Bytes) (s : State) (l : List Bool) :
    completeTask key status rest (s.withLink l) = (completeTask key status rest s).withLink l := by
  rw [completeTask_eq, completeTask_eq]
  rfl

@[simp] theorem routeStatus_withLink (key status : Byte) (rest : Bytes) (s : State) (l : List Bool) :
    routeStatus key status rest (s.withLink l) = (routeStatus key status rest s).withLink l := by
  unfold routeStatus
  rw [State.withLink_cfg]
  split
  · exact completeTask_withLink key status rest s l
  · split <;> rfl

/-- A TransportFault sets no flag (R213). -/
theorem State.takeFault_transportFault (s : State) (f : Bytes) :
    s.takeFault (.transportFault f) = s.emit (.fault (.transportFault f)) := by
  simp [State.takeFault, FaultInfo.flag, State.setFlags]

/-! ### What DISPATCH answers -/

/-- DISPATCH's answer, by its acknowledgement's: only a fault is handed on (R189, log 16). -/
def dispatchAnswer : Reply Unit → Reply Turn
  | .fault f => .fault f
  | _ => .ok .cont

theorem dispatchPayload_routed {id status key : Byte} {tail rest : Bytes} {s : State}
    (h : route s.cfg id status tail = some (key, rest)) : dispatchPayload id status tail s =
      if needsAck s.cfg id status then
        ((sendAck key (routeStatus key status rest s)).1,
          dispatchAnswer (sendAck key (routeStatus key status rest s)).2)
      else (routeStatus key status rest s, .ok .cont) := by
  rw [dispatchPayload, h]
  dsimp only
  split
  · generalize sendAck key (routeStatus key status rest s) = p
    obtain ⟨u, a | f | r⟩ := p <;> rfl
  · rfl

/-! ### One write at most -/

/-- `t` may come of `s` by what an operation does before its write: nothing is written, and what is logged is no event
that follows a write. -/
def State.beforeWrite (s t : State) : Prop := t.tx = s.tx ∧ ∃ l, t.ev = s.ev ++ l ∧ loggedBeforeWrite l = l

/-- Log several events. -/
def State.emitAll (s : State) (l : List Event) : State := { s with ev := s.ev ++ l }

theorem State.emitAll_nil (s : State) : s.emitAll [] = s := by
  rw [State.emitAll, List.append_nil]

theorem loggedBeforeWrite_append (l l' : List Event) :
    loggedBeforeWrite (l ++ l') = loggedBeforeWrite l ++ loggedBeforeWrite l' :=
  List.filter_append ..

/-- The answers `p` of an operation on `s`, by the transport's coming answers: either it writes nothing and does not
look at the transport, or the next answer decides between a fault and a frame written. -/
inductive WritesAtMostOnce {α : Type} (s : State) (p : List Bool → State × Reply α) : Prop
  | quiet (t : State) (a : Reply α) (htx : t.tx = s.tx) (hp : ∀ l, p l = (t.withLink l, a))
  | writes (t : State) (f : Bytes) (after : List Event) (a : Reply α) (ht : s.beforeWrite t)
      (hafter : loggedBeforeWrite after = [])
      (hfailed : ∀ l, p (false :: l) = ((t.withLink l).takeFault (.transportFault f), .fault (.transportFault f)))
      (htaken : ∀ l, p (true :: l) = (((t.withLink l).emitAll after).pushTx f, a))

theorem State.beforeWrite_refl (s : State) : s.beforeWrite s := ⟨rfl, [], (List.append_nil _).symm, rfl⟩

theorem State.beforeWrite_trans {s t u : State} (h : s.beforeWrite t) (h' : t.beforeWrite u) : s.beforeWrite u := by
  obtain ⟨htx, l, hev, hl⟩ := h
  obtain ⟨htx', l', hev', hl'⟩ := h'
  exact ⟨htx'.trans htx, l ++ l', by rw [hev', hev, List.append_assoc], by rw [loggedBeforeWrite_append, hl, hl']⟩

/-- An event that follows no write may be logged before one. -/
theorem State.beforeWrite_emit (s : State) {e : Event} (he : loggedBeforeWrite [e] = [e]) : s.beforeWrite (s.emit e) :=
  ⟨rfl, [e], rfl, he⟩

theorem State.beforeWrite_dropHead (s : State) (n : Nat) : s.beforeWrite (s.dropHead n) :=
  ⟨s.dropHead_tx n, [], by simp, rfl⟩

theorem routeStatus_beforeWrite (key status : Byte) (rest : Bytes) (s : State) :
    s.beforeWrite (routeStatus key status rest s) := by
  unfold routeStatus
  split
  · rw [completeTask_eq, completionEvent]
    split <;> exact ⟨rfl, _, rfl, rfl⟩
  · split <;> exact s.beforeWrite_emit rfl

namespace WritesAtMostOnce

variable {α β : Type} {s t : State}

/-- What comes before a write may be put in front. -/
theorem after_beforeWrite {p : List Bool → State × Reply α} (h : s.beforeWrite t) (hp : WritesAtMostOnce t p) :
    WritesAtMostOnce s p := by
  cases hp with
  | quiet u a htx hp => exact .quiet u a (htx.trans h.1) hp
  | writes u f after a hu hafter hfailed htaken =>
    exact .writes u f after a (State.beforeWrite_trans h hu) hafter hfailed htaken

/-- What follows may change the answer, when it hands a fault on. -/
theorem map_answer {p : List Bool → State × Reply α} (r : Reply α → Reply β) (hr : ∀ f, r (.fault f) = .fault f)
    (hp : WritesAtMostOnce s p) : WritesAtMostOnce s fun l => ((p l).1, r (p l).2) := by
  cases hp with
  | quiet u a htx hp => exact .quiet u (r a) htx fun l => by rw [hp]
  | writes u f after a hu hafter hfailed htaken =>
    exact .writes u f after (r a) hu hafter (fun l => by rw [hfailed, hr]) fun l => by rw [htaken]

theorem txWrite (f : Bytes) (s : State) : WritesAtMostOnce s fun l => txWrite f (s.withLink l) :=
  .writes s f [] (.ok ()) s.beforeWrite_refl rfl (fun l => txWrite_failed (s.withLink_false_not_writable l)) fun l => by
    rw [State.emitAll_nil]
    exact txWrite_taken (s.withLink_true_writable l)

/-- An operation refused for a length `MAX_LEN` cannot hold does nothing else (R211). -/
theorem unlessTooLong (n : Nat) (op : RefusedOp) {p : List Bool → State × Reply α} (hp : WritesAtMostOnce s p) :
    WritesAtMostOnce s fun l =>
      if s.cfg.maxLen.val < n then refuse op (.lengthError n) (s.withLink l) else p l := by
  split
  · exact .quiet (s.emit (.refused op (.lengthError n))) (.refused (.lengthError n)) rfl fun _ => rfl
  · exact hp

theorem sendUnstored (env : Bytes) (s : State) : WritesAtMostOnce s fun l => sendUnstored env (s.withLink l) :=
  unlessTooLong env.length .wrapId
    (after_beforeWrite (t := (allocPid s).1) s.beforeWrite_refl
      (txWrite (wrapFrame s.cfg (idByte s.pidCtr) env) (allocPid s).1))

theorem sendAddTask (flags : BitVec 3) (tid : IssuedId) (user : Bytes) (s : State) :
    WritesAtMostOnce s fun l => sendAddTask flags tid user (s.withLink l) := by
  have hsent (l : List Bool) : Machine.sendAddTask flags tid user (s.withLink l) = Machine.txWrite
      (wrapFrame s.cfg (idByte s.pidCtr) (addEnvelope s.cfg flags tid user))
      ((s.registered flags tid user).withLink l) :=
    congrArg (Machine.txWrite _) (pendPut_withLink tid (histPut s.pidCtr
      (wrapFrame s.cfg (idByte s.pidCtr) (addEnvelope s.cfg flags tid user)) (allocPid s).1) l)
  have hbefore : s.beforeWrite (s.registered flags tid user) := by
    rw [State.registered, pendPut_frame]
    exact s.beforeWrite_refl
  simp only [hsent]
  exact after_beforeWrite hbefore (txWrite _ _)

/-- RETRANSMIT logs after its write (R169). -/
theorem resend (id : Byte) (s : State) : WritesAtMostOnce s fun l => resend id (s.withLink l) := by
  cases h : s.histAt id.toNat with
  | none => exact .quiet (s.emit (.unknownRetransmit id)) _ rfl fun l => resend_unknown (s := s.withLink l) h
  | some f =>
    exact .writes (s.setHist id.toNat none) f [.retransmit id] (.ok ()) s.beforeWrite_refl rfl
      (fun l => resend_failed (s := s.withLink (false :: l)) h (s.withLink_false_not_writable l))
      fun l => resend_taken (s := s.withLink (true :: l)) h (s.withLink_true_writable l)

/-- The acknowledgement is DISPATCH's only write, and comes last (R195, R196). -/
theorem dispatchPayload (id status : Byte) (tail : Bytes) (s : State) :
    WritesAtMostOnce s fun l => dispatchPayload id status tail (s.withLink l) := by
  cases h : route s.cfg id status tail with
  | none =>
    exact .quiet (s.emit (.malformedAsync id status)) (.ok .cont) rfl fun l => by
      simp [Machine.dispatchPayload, h]
  | some r =>
    obtain ⟨key, rest⟩ := r
    have hroute := routeStatus_beforeWrite key status rest s
    have hrouted (l : List Bool) := dispatchPayload_routed (s := s.withLink l) h
    simp only [hrouted, State.withLink_cfg, routeStatus_withLink]
    split
    · exact after_beforeWrite hroute (map_answer dispatchAnswer (fun _ => rfl)
        (sendUnstored (ackEnvelope (Machine.routeStatus key status rest s).cfg key) _))
    · exact .quiet _ (.ok .cont) hroute.1 fun _ => rfl

theorem thenContinue {p : List Bool → State × Reply Unit} (hp : WritesAtMostOnce s p) :
    WritesAtMostOnce s fun l => thenContinue (p l) := by
  have hanswer (q : State × Reply Unit) : Machine.thenContinue q = (q.1, (Machine.thenContinue (s, q.2)).2) := by
    obtain ⟨u, a | f | r⟩ := q <;> rfl
  simp only [hanswer (p _)]
  exact map_answer (fun a => (Machine.thenContinue (s, a)).2) (fun _ => rfl) hp

/-- A bad frame is logged and answered with a negative frame (R187). -/
theorem badFrame (id : Byte) {e : Event} (he : loggedBeforeWrite [e] = [e]) (s : State) :
    WritesAtMostOnce s fun l => Machine.thenContinue (Machine.sendNegative id ((s.withLink l).emit e)) :=
  thenContinue (after_beforeWrite (s.beforeWrite_emit he) (txWrite (wrapFrame s.cfg id []) (s.emit e)))

theorem handleUnwrapped (u : Unwrapped) (s : State) : WritesAtMostOnce s fun l => handleUnwrapped u (s.withLink l) := by
  cases u with
  | crcMismatch id => exact badFrame id (e := .crcMismatch id) rfl s
  | badEscape id => exact badFrame id (e := .badEscape id) rfl s
  | ok id payload =>
    cases payload with
    | nil => exact thenContinue (resend id s)
    | cons status tail => exact dispatchPayload id status tail s

theorem parseCandidate (s : State) : WritesAtMostOnce s fun l => parseCandidate (s.withLink l) := by
  unfold Machine.parseCandidate
  simp only [State.withLink_rbSize, State.withLink_rb, State.withLink_cfg, State.withLink_dropHead]
  split
  · exact .quiet s (.ok .wait) rfl fun _ => rfl
  · cases acceptedLen s.cfg (s.rb.getD 1 0) (s.rb.getD 2 0) with
    | none => exact .quiet ((s.dropHead 1).emit _) (.ok .cont) (s.dropHead_tx 1) fun _ => rfl
    | some len =>
      dsimp only
      cases physSpan s.cfg s.rb len with
      | none => exact .quiet s (.ok .wait) rfl fun _ => rfl
      | some n => exact after_beforeWrite (s.beforeWrite_dropHead n) (handleUnwrapped _ (s.dropHead n))

theorem parseOne (s : State) : WritesAtMostOnce s fun l => parseOne (s.withLink l) := by
  unfold Machine.parseOne
  simp only [State.withLink_rbSize, State.withLink_cfg, State.withLink_ringFind, State.withLink_dropHead,
    State.withLink_emit]
  split
  · exact .quiet s (.ok .wait) rfl fun _ => rfl
  · cases ringFind s.cfg.start 0 s with
    | none => exact .quiet ((s.dropHead s.rbSize).emit _) (.ok .wait) (s.dropHead_tx _) fun _ => rfl
    | some k =>
      dsimp only
      split
      · exact parseCandidate s
      · have hgarbage := (s.dropHead k).beforeWrite_emit (e := .garbage k) rfl
        exact after_beforeWrite (State.beforeWrite_trans (s.beforeWrite_dropHead k) hgarbage) (parseCandidate _)

/-! ### The ring buffer -/

theorem ringAppend (bs : Bytes) (s : State) : WritesAtMostOnce s fun l => ringAppend bs (s.withLink l) := by
  cases h : s.cfg.capFits (s.rbSize + bs.length) with
  | true =>
    exact .quiet (s.pushTail bs) (.ok ()) (s.pushTail_tx bs) fun l => by
      rw [ringAppend_fits (s := s.withLink l) h, State.withLink_pushTail]
  | false =>
    exact .quiet (s.takeFault (.ringOverflow s.rbSize bs.length)) (.fault (.ringOverflow s.rbSize bs.length)) rfl
      fun l => ringAppend_overflows (s := s.withLink l) h

theorem ringGet (i : Nat) (s : State) : WritesAtMostOnce s fun l => ringGet i (s.withLink l) := by
  by_cases h : i < s.rbSize
  · exact .quiet s (.ok (s.rbMem.read (s.rbHead + i))) rfl fun l => ringGet_inside (s := s.withLink l) h
  · exact .quiet (s.takeFault (.boundsError i s.rbSize)) (.fault (.boundsError i s.rbSize)) rfl fun l =>
      ringGet_outside (s := s.withLink l) (Nat.not_lt.1 h)

theorem ringTake (n : Nat) (s : State) : WritesAtMostOnce s fun l => ringTake n (s.withLink l) := by
  by_cases h : n ≤ s.rbSize
  · exact .quiet (s.dropHead n) (.ok (s.rb.take n)) (s.dropHead_tx n) fun l => by
      rw [ringTake_inside (s := s.withLink l) h, State.withLink_dropHead, State.withLink_rb]
  · exact .quiet (s.takeFault (.boundsError n s.rbSize)) (.fault (.boundsError n s.rbSize)) rfl fun l =>
      ringTake_outside (s := s.withLink l) (Nat.not_le.1 h)

theorem ringSkip (n : Nat) (s : State) : WritesAtMostOnce s fun l => ringSkip n (s.withLink l) := by
  by_cases h : n ≤ s.rbSize
  · exact .quiet (s.dropHead n) (.ok ()) (s.dropHead_tx n) fun l => by
      rw [ringSkip_inside (s := s.withLink l) h, State.withLink_dropHead]
  · exact .quiet (s.takeFault (.boundsError n s.rbSize)) (.fault (.boundsError n s.rbSize)) rfl fun l =>
      ringSkip_outside (s := s.withLink l) (Nat.not_le.1 h)

end WritesAtMostOnce

end Sys2Proof.Machine
end

section
/-! A failed TxWrite ends any instruction with TransportFault, and what was changed before it stays (42_transmit_ops.md
R170, log 8). -/

open Sys2Proof.Claims

namespace Sys2Proof.Machine

/-- The outcomes `o` of an instruction on `s`, by the transport's coming answers: where a frame would have been written,
a failed write gives the fault in its place; where none would have been, the transport is not looked at. -/
def faultsInsteadOfWriting (s : State) (o : List Bool → Host.Outcome State Fault Refusal) : Prop :=
  ∀ (l : List Bool) (u : State), o (true :: l) = .next u →
    (s.tx.length < u.tx.length → ∃ f k, u.tx = s.tx ++ [f] ∧ u.ev = s.ev ++ k ∧
      o (false :: l) = .next { u with
        tx := s.tx, ev := s.ev ++ loggedBeforeWrite k ++ [.fault (.transportFault f)]
        ret := .fault (.transportFault f) }) ∧
    (u.tx.length ≤ s.tx.length → o (false :: l) = .next (u.withLink (false :: l)))

namespace faultsInsteadOfWriting

variable {s t : State} {o : List Bool → Host.Outcome State Fault Refusal}

/-- An instruction that writes no frame. -/
theorem of_quiet (r : Result) (htx : t.tx.length ≤ s.tx.length) (ho : ∀ l, o l = finish (t.withLink l) r) :
    faultsInsteadOfWriting s o := by
  intro l u hu
  obtain rfl : (t.withLink (true :: l)).setRet r = u := Host.Outcome.next.inj ((ho _).symm.trans hu)
  exact ⟨fun hlt => absurd htx (Nat.not_le.2 hlt), fun _ => ho _⟩

/-- An instruction that only answers. -/
theorem answers (r : Result) (ho : ∀ l, o l = finish (s.withLink l) r) : faultsInsteadOfWriting s o :=
  of_quiet r (Nat.le_refl _) ho

/-- An instruction that writes a frame. -/
theorem of_write {f : Bytes} {after : List Event} (r : Result) (ht : s.beforeWrite t)
    (hafter : loggedBeforeWrite after = [])
    (hfailed : ∀ l, o (false :: l) = finish ((t.withLink l).takeFault (.transportFault f)) (.fault (.transportFault f)))
    (htaken : ∀ l, o (true :: l) = finish (((t.withLink l).emitAll after).pushTx f) r) : faultsInsteadOfWriting s o := by
  obtain ⟨htx, k, hev, hk⟩ := ht
  intro l u hu
  obtain rfl := Host.Outcome.next.inj ((htaken l).symm.trans hu)
  refine ⟨fun _ => ⟨f, k ++ after, congrArg (· ++ [f]) htx, ?_, ?_⟩, fun hle => absurd hle ?_⟩
  · show t.ev ++ after = s.ev ++ (k ++ after)
    rw [hev, List.append_assoc]
  · rw [hfailed, loggedBeforeWrite_append, hk, hafter, List.append_nil, ← hev, ← htx, State.takeFault_transportFault]
    rfl
  · show ¬ (t.tx ++ [f]).length ≤ s.tx.length
    simp [htx]

/-- The operation's answer goes to the invoker (R210). -/
theorem conclude {α : Type} {p : List Bool → State × Reply α} (g : α → Result) (hp : WritesAtMostOnce s p) :
    faultsInsteadOfWriting s fun l => conclude g (p l) := by
  cases hp with
  | quiet t a htx hp =>
    simp only [hp]
    cases a <;> exact of_quiet _ (Nat.le_of_eq (congrArg _ htx)) fun _ => rfl
  | writes t f after a ht hafter hfailed htaken =>
    obtain ⟨r, hr⟩ : ∃ r, ∀ u, Machine.conclude g (u, a) = finish u r := by cases a <;> exact ⟨_, fun _ => rfl⟩
    exact of_write r ht hafter (fun l => by rw [hfailed]; rfl) fun l => by rw [htaken, hr]

/-- RX_CHUNK's first step writes nothing, whether the bytes fit or not (R180). -/
theorem rxChunk (bytes : Bytes) (s : State) : faultsInsteadOfWriting s fun l => exec (.rxChunk bytes) (s.withLink l) := by
  cases hbusy : s.rxBusy with
  | true =>
    intro l u hu
    have hstuck : exec (.rxChunk bytes) (s.withLink (true :: l)) = .fault .overlappingRxChunk := if_pos hbusy
    cases hstuck.symm.trans hu
  | false =>
    have hidle (l : List Bool) : (s.withLink l).rxBusy = false := hbusy
    cases hfits : s.cfg.capFits (s.rbSize + bytes.length) with
    | true =>
      refine of_quiet (t := (s.pushTail bytes).setBusy true) .none (by simp) fun l => ?_
      simp only [exec, execRxChunk, hidle, ringAppend_fits (s := s.withLink l) hfits, State.withLink_pushTail]
      rfl
    | false =>
      refine of_quiet (t := s.takeFault (.ringOverflow s.rbSize bytes.length))
        (.fault (.ringOverflow s.rbSize bytes.length)) (Nat.le_refl _) fun l => ?_
      simp only [exec, execRxChunk, hidle, ringAppend_overflows (s := s.withLink l) hfits]
      rfl

end faultsInsteadOfWriting

/-- Every operation and wire row: each writes at most one frame, through TxWrite (R170). -/
theorem exec_faultsInsteadOfWriting (i : Instr) (s : State) :
    faultsInsteadOfWriting s fun l => exec i (s.withLink l) := by
  cases i with
  | frame id payload crc => exact .conclude .turn (.handleUnwrapped _ s)
  | frameEmpty id crc => exact .conclude .turn (.handleUnwrapped _ s)
  | envAdd flags tid user =>
    exact .conclude (fun _ => .none) (.unlessTooLong (3 + user.length) .wrapId (.sendAddTask flags tid user s))
  | send flags user =>
    have hsent := WritesAtMostOnce.sendAddTask (sentFlags flags) s.tidCtr user (allocTid s).1
    exact .conclude (fun _ => .number s.tidCtr.val)
      (.unlessTooLong (3 + user.length) .send (.after_beforeWrite (t := (allocTid s).1) s.beforeWrite_refl hsent))
  | envAck key => exact .conclude (fun _ => .none) (.sendUnstored (ackEnvelope s.cfg key) s)
  | txAck key => exact .conclude (fun _ => .none) (.sendUnstored (ackEnvelope s.cfg key) s)
  | envAbort => exact .conclude (fun _ => .none) (.sendUnstored (abortEnvelope s.cfg) s)
  | abort => exact .conclude (fun _ => .none) (.sendUnstored (abortEnvelope s.cfg) s)
  | txNeg id => exact .conclude (fun _ => .none) (.txWrite (wrapFrame s.cfg id []) s)
  | retransmit id => exact .conclude (fun _ => .none) (.resend id s)
  | parseStep => exact .conclude .turn (.parseOne s)
  | dispatch id status tail => exact .conclude .turn (.dispatchPayload id status tail s)
  | rspSync id status rest => exact .conclude .turn (.dispatchPayload id status rest s)
  | rspAsync id status tid rest => exact .conclude .turn (.dispatchPayload id status (tid :: rest) s)
  | stPending id tail => exact .conclude .turn (.dispatchPayload id s.cfg.stPending tail s)
  | stInProgress id tail => exact .conclude .turn (.dispatchPayload id s.cfg.stInProgress tail s)
  | stResult id tail => exact .conclude .turn (.dispatchPayload id s.cfg.stResult tail s)
  | stError id tail => exact .conclude .turn (.dispatchPayload id s.cfg.stError tail s)
  | stStopped id tail => exact .conclude .turn (.dispatchPayload id s.cfg.stStopped tail s)
  | stAsyncResult id tail => exact .conclude .turn (.dispatchPayload id s.cfg.stAsyncResult tail s)
  | stAsyncError id tail => exact .conclude .turn (.dispatchPayload id s.cfg.stAsyncError tail s)
  | stWaiting id tail => exact .conclude .turn (.dispatchPayload id s.cfg.stWaiting tail s)
  | stOverflow id tail => exact .conclude .turn (.dispatchPayload id s.cfg.stOverflow tail s)
  | stAlreadyExists id tail => exact .conclude .turn (.dispatchPayload id s.cfg.stAlreadyExists tail s)
  | stNotFound id tail => exact .conclude .turn (.dispatchPayload id s.cfg.stNotFound tail s)
  | stIllegalValue id tail => exact .conclude .turn (.dispatchPayload id s.cfg.stIllegalValue tail s)
  | rxChunk bytes => exact .rxChunk bytes s
  | rbAppend bytes => exact .conclude (fun _ => .none) (.ringAppend bytes s)
  | rbGet i => exact .conclude .byte (.ringGet i s)
  | rbTake n => exact .conclude .bytes (.ringTake n s)
  | rbSkip n => exact .conclude (fun _ => .none) (.ringSkip n s)
  | wrapId id payload =>
    exact .conclude .bytes (.unlessTooLong payload.length .wrapId
      (.quiet s (.ok (wrapFrame s.cfg id payload)) rfl fun _ => rfl))
  | wrapNext payload =>
    exact .conclude (fun q : Byte × Bytes => .wrapped q.1 q.2) (.unlessTooLong payload.length .wrapNext
      (.quiet (allocPid s).1 (.ok (idByte s.pidCtr, wrapFrame s.cfg (idByte s.pidCtr) payload)) rfl fun _ => rfl))
  | reset =>
    exact .of_quiet (t := { State.fresh s.cfg with cmds := s.cmds, sched := s.sched }) .none (Nat.zero_le _) fun _ => rfl
  | escStart => exact .answers (.byte s.cfg.start) fun _ => rfl
  | escEsc => exact .answers (.byte s.cfg.esc) fun _ => rfl
  | rbFind b start => exact .answers (.offset (ringFind b start s)) fun _ => rfl
  | rbSize => exact .answers (.number s.rbSize) fun _ => rfl
  | rbIsEmpty => exact .answers (.flag (decide (s.rbSize = 0))) fun _ => rfl
  | crc8 id data => exact .answers (.byte (crc8 id data)) fun _ => rfl
  | escByte b => exact .answers (.bytes (escByte s.cfg b)) fun _ => rfl
  | escape str => exact .answers (.bytes (escape s.cfg str)) fun _ => rfl
  | unescape q => exact .answers (.unescaped (unescape s.cfg q)) fun _ => rfl
  | physSpan buf len => exact .answers (.span (physSpan s.cfg buf len)) fun _ => rfl
  | unwrap f => exact .answers (.unwrapped (unwrap s.cfg f)) fun _ => rfl
  | allocPid => exact .of_quiet (t := (allocPid s).1) (.number s.pidCtr.val) (Nat.le_refl _) fun _ => rfl
  | allocTid => exact .of_quiet (t := (allocTid s).1) (.number s.tidCtr.val) (Nat.le_refl _) fun _ => rfl
  | histPut pid f => exact .of_quiet (t := histPut pid f s) .none (Nat.le_refl _) fun _ => rfl
  | histTake id =>
    refine .of_quiet (t := (histTake id s).1) (.frame (s.histAt id.toNat)) ?_ fun l =>
      congrArg (fun q : State × Option Bytes => finish q.1 (.frame q.2)) (histTake_withLink id s l)
    rw [histTake_frame]
  | pendPut tid =>
    refine .of_quiet (t := pendPut tid s) .none ?_ fun l => congrArg (finish · .none) (pendPut_withLink tid s l)
    rw [pendPut_eq]
    exact Nat.le_refl _
  | pendTake key =>
    exact .of_quiet (t := s.setPend key.toNat false) (.flag (s.pendAt key.toNat)) (Nat.le_refl _) fun l =>
      congrArg (fun q : State × Bool => finish q.1 (.flag q.2)) (pendTake_eq key (s.withLink l))
  | complete key status rest =>
    refine .of_quiet (t := completeTask key status rest s) .none ?_ fun l =>
      congrArg (finish · .none) (completeTask_withLink key status rest s l)
    rw [completeTask_eq]
    exact Nat.le_refl _

/-- Settles O31: the failing transport is the one whose next answer is `false`. -/
theorem failedWriteKeepsEarlierChanges : Obligations.FailedWriteKeepsEarlierChanges := by
  unfold Obligations.FailedWriteKeepsEarlierChanges
  intro s u i hfail hu
  have hlink : false :: s.link.tail = s.link := List.cons_head?_tail hfail
  have h := exec_faultsInsteadOfWriting i s s.link.tail u hu
  rw [hlink] at h
  exact h

end Sys2Proof.Machine
end

section
/-! SUPPORT. DISPATCH by the class of the status byte (30_encoding.md R92, 43_receive_path.md R190 to R195): the three
classes are apart by K4, every payload row is DISPATCH of its bytes, and what DISPATCH does is said once per class. -/

open Sys2Proof.Claims

namespace Sys2Proof

/-! ### The classes (R92) -/

theorem statuses_perm_classes (c : Params) (id : Byte) (t : Bytes) :
    c.statuses.Perm ((informationalRows c id t).map Prod.fst ++
      ([c.stResult, c.stError] ++ [c.stAsyncResult, c.stAsyncError])) := by
  refine List.perm_iff_count.2 fun b => ?_
  simp only [Params.statuses, informationalRows, List.map_cons, List.map_nil, List.cons_append, List.nil_append,
    List.count_cons]
  omega

theorem isTerminal_iff {c : Params} {st : Byte} : isTerminal c st = true ↔ st ∈ [c.stResult, c.stError] := by
  simp [isTerminal]

theorem isAsync_iff {c : Params} {st : Byte} : isAsync c st = true ↔ st ∈ [c.stAsyncResult, c.stAsyncError] := by
  simp [isAsync]

theorem isCompleting_iff {c : Params} {st : Byte} :
    isCompleting c st = true ↔ st ∈ [c.stResult, c.stError] ++ [c.stAsyncResult, c.stAsyncError] := by
  rw [isCompleting, Bool.or_eq_true, isTerminal_iff, isAsync_iff, List.mem_append]

/-- No terminal status is asynchronous (K4). -/
theorem isAsync_of_terminal {c : Params} {st : Byte} (hv : c.Valid) (h : isTerminal c st = true) :
    isAsync c st = false := by
  obtain ⟨-, -, -, hnd, -⟩ := c.valid_iff.1 hv
  have hclasses := (List.nodup_append.1 ((statuses_perm_classes c 0 []).nodup_iff.1 hnd)).2.1
  rw [Bool.eq_false_iff, Ne, isAsync_iff]
  exact List.disjoint_of_nodup_append hclasses (isTerminal_iff.1 h)

/-- No asynchronous status is terminal (K4). -/
theorem isTerminal_of_async {c : Params} {st : Byte} (hv : c.Valid) (h : isAsync c st = true) :
    isTerminal c st = false := by
  cases ht : isTerminal c st with
  | false => rfl
  | true => simp [isAsync_of_terminal hv ht] at h

/-- The informational statuses are named and complete nothing (K4). -/
theorem informational_class {c : Params} {id st : Byte} {t : Bytes} {row : Instr} (hv : c.Valid)
    (h : (st, row) ∈ informationalRows c id t) : isKnown c st = true ∧ isCompleting c st = false := by
  obtain ⟨-, -, -, hnd, -⟩ := c.valid_iff.1 hv
  have hperm := statuses_perm_classes c id t
  have hmem : st ∈ (informationalRows c id t).map Prod.fst := List.mem_map_of_mem (f := Prod.fst) h
  refine ⟨List.contains_iff_mem.2 (hperm.mem_iff.2 (List.mem_append_left _ hmem)), ?_⟩
  rw [Bool.eq_false_iff, Ne, isCompleting_iff]
  exact List.disjoint_of_nodup_append (hperm.nodup_iff.1 hnd) hmem

/-- A completing status is one of the twelve (R192). -/
theorem isCompleting_of_unknown {c : Params} {st : Byte} (h : st ∉ c.statuses) : isCompleting c st = false := by
  rw [Bool.eq_false_iff, Ne, isCompleting_iff]
  exact fun hc => h ((statuses_perm_classes c 0 []).mem_iff.2 (List.mem_append_right _ hc))

theorem route_sync {c : Params} {st : Byte} (id : Byte) (tail : Bytes) (h : isAsync c st = false) :
    route c id st tail = some (id, tail) := by
  simp [route, h]

theorem route_async {c : Params} {st : Byte} (id tid : Byte) (rest : Bytes) (h : isAsync c st = true) :
    route c id st (tid :: rest) = some (tid, rest) := by
  simp [route, h]

theorem route_malformed {c : Params} {st : Byte} (id : Byte) (h : isAsync c st = true) : route c id st [] = none := by
  simp [route, h]

namespace Machine

/-! ### The rows of received payloads (log 11) -/

section
variable {s : State} {id st : Byte} {tail : Bytes}

theorem exec_eq_dispatch_of_statusRow {row : Instr} (h : (st, row) ∈ statusRows s.cfg id tail) :
    exec row s = exec (.dispatch id st tail) s := by
  simp only [statusRows, List.mem_cons, Prod.mk.injEq, List.not_mem_nil, or_false] at h
  rcases h with ⟨rfl, rfl⟩ | ⟨rfl, rfl⟩ | ⟨rfl, rfl⟩ | ⟨rfl, rfl⟩ | ⟨rfl, rfl⟩ | ⟨rfl, rfl⟩ | ⟨rfl, rfl⟩ |
    ⟨rfl, rfl⟩ | ⟨rfl, rfl⟩ | ⟨rfl, rfl⟩ | ⟨rfl, rfl⟩ | ⟨rfl, rfl⟩ <;> rfl

/-- The status row, the synchronous format and DISPATCH are one operation (R190, R191). -/
theorem exec_eq_dispatch_of_received {row i : Instr} (h : (st, row) ∈ statusRows s.cfg id tail)
    (hi : i ∈ [row, .rspSync id st tail, .dispatch id st tail]) : exec i s = exec (.dispatch id st tail) s := by
  simp only [List.mem_cons, List.not_mem_nil, or_false] at hi
  rcases hi with rfl | rfl | rfl
  · exact exec_eq_dispatch_of_statusRow h
  · rfl
  · rfl

theorem informationalRows_subset (c : Params) (id : Byte) (t : Bytes) :
    informationalRows c id t ⊆ statusRows c id t := by
  simp [informationalRows, statusRows]

theorem asyncRow_mem (h : st = s.cfg.stAsyncResult ∨ st = s.cfg.stAsyncError) :
    (st, if st = s.cfg.stAsyncResult then Instr.stAsyncResult id tail else .stAsyncError id tail) ∈
      statusRows s.cfg id tail := by
  split
  case isTrue hr => simp [statusRows, hr]
  case isFalse hr => simp [statusRows, h.resolve_left hr]

/-! ### What DISPATCH does -/

theorem routeStatus_completing (key : Byte) (rest : Bytes) (h : isCompleting s.cfg st = true) :
    routeStatus key st rest s = completeTask key st rest s :=
  if_pos h

/-- A completion's update, as the state it leaves (R193). -/
theorem completeTask_frame (key : Byte) (rest : Bytes) : completeTask key st rest s =
    { s with pend := (s.setPend key.toNat false).pend, ev := s.ev ++ [completionEvent s key st rest] } :=
  completeTask_eq key st rest s

/-- A terminal status completes the task of the packet id; out of band it is not acknowledged (R191, R195). -/
theorem dispatchPayload_outOfBand (hv : s.cfg.Valid) (h : isTerminal s.cfg st = true) (hid : id = s.cfg.sentinelId) :
    dispatchPayload id st tail s = (completeTask id st tail s, .ok .cont) := by
  have hack : ¬ needsAck s.cfg id st = true := by simp [needsAck, hid]
  rw [dispatchPayload_routed (route_sync id tail (isAsync_of_terminal hv h)), if_neg hack,
    routeStatus_completing id tail (by simp [isCompleting, h])]

theorem sendAck_taken {u : State} (key : Byte) (hw : u.writable) (hl : 2 ≤ u.cfg.maxLen.val) : sendAck key u =
    ((allocPid u).1.wrote (wrapFrame u.cfg (idByte u.pidCtr) (ackEnvelope u.cfg key)), .ok ()) := by
  have hw' : (allocPid u).1.writable := hw
  have hfits : (ackEnvelope u.cfg key).length ≤ u.cfg.maxLen.val := hl
  rw [sendAck, sendUnstored_fits hfits, txWrite_taken hw']

/-- A terminal status under any other packet id is acknowledged too, matched or not (R195). -/
theorem dispatchPayload_acknowledged (hv : s.cfg.Valid) (h : isTerminal s.cfg st = true) (hid : id ≠ s.cfg.sentinelId)
    (hw : s.writable) (hl : 2 ≤ s.cfg.maxLen.val) : dispatchPayload id st tail s =
      ((allocPid (completeTask id st tail s)).1.wrote (wrapFrame s.cfg (idByte s.pidCtr) (ackEnvelope s.cfg id)),
        .ok .cont) := by
  have hack : needsAck s.cfg id st = true := by simp [needsAck, hid, h]
  have hsent : sendAck id (completeTask id st tail s) = _ :=
    sendAck_taken id (by rw [completeTask_eq]; exact hw) (by rw [completeTask_eq]; exact hl)
  rw [dispatchPayload_routed (route_sync id tail (isAsync_of_terminal hv h)), if_pos hack,
    routeStatus_completing id tail (by simp [isCompleting, h]), hsent, completeTask_frame]
  rfl

/-- An asynchronous status completes the task it names and is not acknowledged (R190, R195). -/
theorem dispatchPayload_async (tid : Byte) (rest : Bytes) (hv : s.cfg.Valid) (h : isAsync s.cfg st = true) :
    dispatchPayload id st (tid :: rest) s = (completeTask tid st rest s, .ok .cont) := by
  have hack : ¬ needsAck s.cfg id st = true := by simp [needsAck, isTerminal_of_async hv h]
  rw [dispatchPayload_routed (route_async id tid rest h), if_neg hack,
    routeStatus_completing tid rest (by simp [isCompleting, h])]

theorem dispatchPayload_malformed (h : isAsync s.cfg st = true) :
    dispatchPayload id st [] s = (s.emit (.malformedAsync id st), .ok .cont) := by
  rw [dispatchPayload, route_malformed id h]

/-- Any status that completes nothing is logged only (R194). -/
theorem dispatchPayload_logged (h : isCompleting s.cfg st = false) : dispatchPayload id st tail s =
    (s.emit (if isKnown s.cfg st then .status id st tail else .unknownStatus id st tail), .ok .cont) := by
  obtain ⟨hterminal, hasync⟩ := Bool.or_eq_false_iff.1 h
  have hack : ¬ needsAck s.cfg id st = true := by simp [needsAck, hterminal]
  have hcomplete : ¬ isCompleting s.cfg st = true := Bool.eq_false_iff.1 h
  rw [dispatchPayload_routed (route_sync id tail hasync), if_neg hack, routeStatus, if_neg hcomplete, apply_ite s.emit]

end

end Machine

end Sys2Proof
end

section
/-! Completion, acknowledgement and the log of received payloads (43_receive_path.md R189 to R195). -/

open Sys2Proof.Claims

namespace Sys2Proof.Machine

/-- Settles O34: one entry is cleared, which may be clear already, and one event tells which it was. -/
theorem completionClearsThePendingEntry : Obligations.CompletionClearsThePendingEntry := by
  unfold Obligations.CompletionClearsThePendingEntry
  intro s key status rest
  refine ⟨(completeTask key status rest s).setRet .none, rfl, ?_⟩
  rw [completeTask_frame]
  exact ⟨s.pendAt_setPend_false key.toNat, rfl⟩

/-- Settles O35: the three forms are one dispatch, and the acknowledgement hangs on the packet id alone. -/
theorem terminalStatusesCompleteAndAcknowledge : Obligations.TerminalStatusesCompleteAndAcknowledge := by
  unfold Obligations.TerminalStatusesCompleteAndAcknowledge
  intro s id st tail i hv hw hl hform
  obtain ⟨hterminal, hexec⟩ : isTerminal s.cfg st = true ∧ exec i s = exec (.dispatch id st tail) s := by
    rcases hform with ⟨rfl, hi⟩ | ⟨rfl, hi⟩
    · exact ⟨by simp [isTerminal], exec_eq_dispatch_of_received (by simp [statusRows]) hi⟩
    · exact ⟨by simp [isTerminal], exec_eq_dispatch_of_received (by simp [statusRows]) hi⟩
  rw [hexec]
  show ∃ t, conclude .turn (dispatchPayload id st tail s) = .next t ∧ _
  by_cases hid : id = s.cfg.sentinelId
  · rw [dispatchPayload_outOfBand hv hterminal hid, completeTask_frame]
    exact ⟨_, rfl, s.pendAt_setPend_false id.toNat, fun _ => ⟨rfl, rfl, rfl⟩, fun hne => absurd hid hne, rfl⟩
  · rw [dispatchPayload_acknowledged hv hterminal hid hw hl, completeTask_frame]
    exact ⟨_, rfl, s.pendAt_setPend_false id.toNat, fun h => absurd h hid, fun _ => ⟨rfl, rfl, rfl⟩, rfl⟩

/-- Settles O36: the key is the byte after the status, and no asynchronous status is terminal. -/
theorem asyncStatusesRouteByTaskId : Obligations.AsyncStatusesRouteByTaskId := by
  unfold Obligations.AsyncStatusesRouteByTaskId
  intro s id st tid rest hv hst
  have hasync : isAsync s.cfg st = true := isAsync_iff.2 (by simpa using hst)
  constructor
  · intro i hi
    have hexec : exec i s = conclude .turn (dispatchPayload id st (tid :: rest) s) := by
      simp only [List.mem_cons, List.not_mem_nil, or_false] at hi
      rcases hi with rfl | rfl | rfl
      · exact exec_eq_dispatch_of_statusRow (asyncRow_mem hst)
      · rfl
      · rfl
    rw [hexec, dispatchPayload_async tid rest hv hasync, completeTask_frame]
    exact ⟨_, rfl, s.pendAt_setPend_false tid.toNat, rfl⟩
  · intro i hi
    have hexec : exec i s = conclude .turn (dispatchPayload id st [] s) := by
      simp only [List.mem_cons, List.not_mem_nil, or_false] at hi
      rcases hi with rfl | rfl
      · exact exec_eq_dispatch_of_statusRow (asyncRow_mem hst)
      · rfl
    rw [hexec, dispatchPayload_malformed hasync]
    rfl

/-- Settles O37: neither class completes anything, and only terminal statuses are acknowledged. -/
theorem otherStatusesAreOnlyLogged : Obligations.OtherStatusesAreOnlyLogged := by
  unfold Obligations.OtherStatusesAreOnlyLogged
  intro s id st tail hv
  constructor
  · intro row hrow i hi
    obtain ⟨hknown, hlogged⟩ := informational_class hv hrow
    rw [exec_eq_dispatch_of_received (informationalRows_subset _ _ _ hrow) hi]
    show conclude .turn (dispatchPayload id st tail s) = _
    rw [dispatchPayload_logged hlogged, if_pos hknown]
    rfl
  · intro hunknown i hi
    have hexec : exec i s = conclude .turn (dispatchPayload id st tail s) := by
      simp only [List.mem_cons, List.not_mem_nil, or_false] at hi
      rcases hi with rfl | rfl <;> rfl
    have hnot : ¬ isKnown s.cfg st = true := mt List.contains_iff_mem.1 hunknown
    rw [hexec, dispatchPayload_logged (isCompleting_of_unknown hunknown), if_neg hnot]
    rfl

end Sys2Proof.Machine
end

section
/-! SUPPORT. What a PARSE_STEP can do, said once (43_receive_path.md R181 to R189): the bytes before the first `START`
go, then the candidate waits for more bytes or is taken out, and a frame taken out is handled with the ring buffer
left alone and at most one frame written. -/

namespace Sys2Proof.Machine

/-! ### Handling a frame -/

/-- The physical ring buffer. -/
def State.ring (s : State) : Memory × Nat × Nat × Nat := (s.rbMem, s.rbHead, s.rbTail, s.rbCap)

/-- `t` may come of `s` by handling a frame: the ring buffer is the same, and at most one frame more is written. -/
def State.writesOneFrame (s t : State) : Prop := t.ring = s.ring ∧ (t.tx = s.tx ∨ ∃ f, t.tx = s.tx ++ [f])

theorem State.rb_of_ring {s t : State} (h : t.ring = s.ring) : t.rb = s.rb := by
  simp only [State.ring, Prod.mk.injEq] at h
  obtain ⟨hmem, hhead, htail, -⟩ := h
  rw [State.rb, State.rbSize, hmem, hhead, htail]
  rfl

/-- What comes before the write touches neither the ring buffer nor `tx`. -/
theorem State.writesOneFrame_after {s u t : State} (hring : u.ring = s.ring) (htx : u.tx = s.tx)
    (h : u.writesOneFrame t) : s.writesOneFrame t := by
  unfold State.writesOneFrame at h
  rwa [hring, htx] at h

theorem txWrite_writesOneFrame (f : Bytes) (s : State) : s.writesOneFrame (txWrite f s).1 := by
  by_cases hw : s.writable
  · rw [txWrite_taken hw]
    exact ⟨rfl, .inr ⟨f, rfl⟩⟩
  · rw [txWrite_failed hw]
    exact ⟨rfl, .inl rfl⟩

theorem sendUnstored_writesOneFrame (env : Bytes) (s : State) : s.writesOneFrame (sendUnstored env s).1 := by
  unfold sendUnstored
  split
  · exact ⟨rfl, .inl rfl⟩
  · exact State.writesOneFrame_after (u := (allocPid s).1) rfl rfl (txWrite_writesOneFrame _ _)

theorem resend_writesOneFrame (id : Byte) (s : State) : s.writesOneFrame (resend id s).1 := by
  cases hf : s.histAt id.toNat with
  | none =>
    rw [resend_unknown hf]
    exact ⟨rfl, .inl rfl⟩
  | some f =>
    by_cases hw : s.writable
    · rw [resend_taken hf hw]
      exact ⟨rfl, .inr ⟨f, rfl⟩⟩
    · rw [resend_failed hf hw]
      exact ⟨rfl, .inl rfl⟩

theorem routeStatus_ring_tx (key status : Byte) (rest : Bytes) (s : State) :
    (routeStatus key status rest s).ring = s.ring ∧ (routeStatus key status rest s).tx = s.tx := by
  unfold routeStatus
  split
  · rw [completeTask_eq]
    exact ⟨rfl, rfl⟩
  · split <;> exact ⟨rfl, rfl⟩

theorem dispatchPayload_writesOneFrame (id status : Byte) (tail : Bytes) (s : State) :
    s.writesOneFrame (dispatchPayload id status tail s).1 := by
  cases hr : route s.cfg id status tail with
  | none =>
    rw [dispatchPayload, hr]
    exact ⟨rfl, .inl rfl⟩
  | some p =>
    obtain ⟨hring, htx⟩ := routeStatus_ring_tx p.1 status p.2 s
    rw [dispatchPayload_routed hr]
    split
    · exact State.writesOneFrame_after hring htx (sendUnstored_writesOneFrame _ _)
    · exact ⟨hring, .inl htx⟩

theorem handleUnwrapped_writesOneFrame (u : Unwrapped) (s : State) : s.writesOneFrame (handleUnwrapped u s).1 := by
  cases u with
  | badEscape id =>
    rw [handleUnwrapped, thenContinue_fst]
    exact State.writesOneFrame_after (u := s.emit (.badEscape id)) rfl rfl (txWrite_writesOneFrame _ _)
  | crcMismatch id =>
    rw [handleUnwrapped, thenContinue_fst]
    exact State.writesOneFrame_after (u := s.emit (.crcMismatch id)) rfl rfl (txWrite_writesOneFrame _ _)
  | ok id payload =>
    cases payload with
    | nil =>
      rw [handleUnwrapped, handlePayload, thenContinue_fst]
      exact resend_writesOneFrame id s
    | cons status tail => exact dispatchPayload_writesOneFrame id status tail s

theorem thenContinue_ne_wait (p : State × Reply Unit) : (thenContinue p).2 ≠ .ok .wait := by
  obtain ⟨s, a | f | r⟩ := p <;> simp [thenContinue]

theorem dispatchPayload_ne_wait (id status : Byte) (tail : Bytes) (s : State) :
    (dispatchPayload id status tail s).2 ≠ .ok .wait := by
  cases hr : route s.cfg id status tail with
  | none => simp [dispatchPayload, hr]
  | some p =>
    rw [dispatchPayload_routed hr]
    split
    · generalize (sendAck p.1 (routeStatus p.1 status p.2 s)).2 = a
      cases a <;> simp [dispatchAnswer]
    · simp

/-- Phases 6 to 8 never wait (R187 to R189). -/
theorem handleUnwrapped_ne_wait (u : Unwrapped) (s : State) : (handleUnwrapped u s).2 ≠ .ok .wait := by
  cases u with
  | badEscape id => exact thenContinue_ne_wait _
  | crcMismatch id => exact thenContinue_ne_wait _
  | ok id payload =>
    cases payload with
    | nil => exact thenContinue_ne_wait _
    | cons status tail => exact dispatchPayload_ne_wait id status tail s

/-! ### The candidate (R183 to R186) -/

theorem parseCandidate_of_span {s : State} {len n : Nat}
    (hl : acceptedLen s.cfg (s.rb.getD 1 0) (s.rb.getD 2 0) = some len) (hn : physSpan s.cfg s.rb len = some n) :
    parseCandidate s = handleUnwrapped (unwrap s.cfg (s.rb.take n)) (s.dropHead n) := by
  have h5 : ¬ s.rbSize < 5 := by
    have hspan := physSpan_le hn
    rw [State.rb_length] at hspan
    omega
  rw [parseCandidate, if_neg h5]
  simp only [hl, hn]

/-- The candidate is not all there (R183, R185): what `State.awaitsBytes` says beside its `START`. -/
def State.incomplete (s : State) : Prop :=
  s.rb.length < 5 ∨
    ∃ len, acceptedLen s.cfg (s.rb.getD 1 0) (s.rb.getD 2 0) = some len ∧ physSpan s.cfg s.rb len = none

theorem parseCandidate_incomplete {s : State} (h : s.incomplete) : parseCandidate s = (s, .ok .wait) := by
  rw [State.incomplete, State.rb_length] at h
  unfold parseCandidate
  split
  · rfl
  · obtain ⟨len, hl, hn⟩ := h.resolve_left ‹_›
    simp only [hl, hn]

/-- A candidate is incomplete, and nothing happens, or bytes are taken from the front and what is made of them, a bad
length or a frame, does not wait. -/
theorem parseCandidate_cases (s : State) :
    (parseCandidate s = (s, .ok .wait) ∧ s.incomplete) ∨
    ((parseCandidate s).2 ≠ .ok .wait ∧
      ∃ n, 1 ≤ n ∧ n ≤ s.rb.length ∧ (s.dropHead n).writesOneFrame (parseCandidate s).1) := by
  by_cases h5 : s.rb.length < 5
  · exact .inl ⟨parseCandidate_incomplete (.inl h5), .inl h5⟩
  cases hl : acceptedLen s.cfg (s.rb.getD 1 0) (s.rb.getD 2 0) with
  | none =>
    rw [parseCandidate_badLength (by simpa using h5) hl]
    exact .inr ⟨by simp, 1, Nat.le_refl 1, by omega, rfl, .inl rfl⟩
  | some len =>
    cases hn : physSpan s.cfg s.rb len with
    | none =>
      have hinc : s.incomplete := .inr ⟨len, hl, hn⟩
      exact .inl ⟨parseCandidate_incomplete hinc, hinc⟩
    | some n =>
      obtain ⟨hpos, hle⟩ := physSpan_le hn
      rw [parseCandidate_of_span hl hn]
      exact .inr ⟨handleUnwrapped_ne_wait _ _, n, by omega, hle, handleUnwrapped_writesOneFrame _ _⟩

/-! ### Before the candidate (R182) -/

/-- How many bytes stand before the first `START`: all of them when there is none. -/
def State.garbageLength (s : State) : Nat := s.rb.idxOf s.cfg.start

/-- The state with those bytes discarded, and logged when there are any. -/
def State.skipGarbage (s : State) : State :=
  if s.garbageLength = 0 then s else (s.dropHead s.garbageLength).emit (.garbage s.garbageLength)

theorem State.garbageLength_le (s : State) : s.garbageLength ≤ s.rbSize := by
  rw [← State.rb_length]
  exact List.idxOf_le_length

theorem State.skipGarbage_rb (s : State) : s.skipGarbage.rb = s.rb.drop s.garbageLength := by
  unfold State.skipGarbage
  split
  case isTrue h => rw [h, List.drop_zero]
  case isFalse => exact s.dropHead_rb s.garbageLength_le

theorem State.skipGarbage_frame (s : State) : s.skipGarbage =
    { s with rbHead := s.skipGarbage.rbHead, rbTail := s.skipGarbage.rbTail
             ev := s.ev ++ if s.garbageLength = 0 then [] else [.garbage s.garbageLength] } := by
  unfold State.skipGarbage
  split
  · rw [List.append_nil]
  · rw [State.dropHead_eq_cursors]
    rfl

theorem State.skipGarbage_cfg (s : State) : s.skipGarbage.cfg = s.cfg := by rw [State.skipGarbage_frame]

theorem State.skipGarbage_tx (s : State) : s.skipGarbage.tx = s.tx := by rw [State.skipGarbage_frame]

theorem State.skipGarbage_head {s : State} (h : s.cfg.start ∈ s.rb) :
    s.skipGarbage.rb.head? = some s.skipGarbage.cfg.start := by
  rw [State.skipGarbage_rb, State.skipGarbage_cfg, List.head?_drop]
  exact List.getElem?_idxOf h

/-- RB.FIND answers the number of bytes before the first `START` (R126). -/
theorem ringFind_start_of_mem {s : State} (h : s.cfg.start ∈ s.rb) :
    ringFind s.cfg.start 0 s = some s.garbageLength := by
  refine ringFind_eq_some.2 ⟨Nat.zero_le _, List.getElem?_idxOf h, fun j _ hj hb => ?_⟩
  obtain ⟨hlen, hb⟩ := List.getElem?_eq_some_iff.1 hb
  simpa [hb] using List.not_of_lt_findIdx hj

theorem ringFind_start_of_notMem {s : State} (h : s.cfg.start ∉ s.rb) : ringFind s.cfg.start 0 s = none :=
  ringFind_eq_none.2 fun _ _ hb => h (List.mem_of_getElem? hb)

theorem State.garbageLength_of_notMem {s : State} (h : s.cfg.start ∉ s.rb) : s.garbageLength = s.rbSize :=
  (List.idxOf_eq_length h).trans s.rb_length

/-- PARSE_STEP: the bytes before the first `START` go first; with no `START` that is all. -/
theorem parseOne_eq (s : State) : parseOne s =
    if s.cfg.start ∈ s.rb then parseCandidate s.skipGarbage else (s.skipGarbage, .ok .wait) := by
  unfold parseOne State.skipGarbage
  split
  case isTrue h0 => simp [s.rb_eq_nil.2 h0, State.garbageLength]
  case isFalse h0 =>
    by_cases hmem : s.cfg.start ∈ s.rb
    · rw [ringFind_start_of_mem hmem, if_pos hmem]
      exact (apply_ite parseCandidate _ _ _).symm
    · rw [ringFind_start_of_notMem hmem, if_neg hmem, State.garbageLength_of_notMem hmem, if_neg h0]

/-! ### What it answers -/

/-- When a PARSE_STEP waits, all it did was to discard the bytes before the first `START`. -/
theorem parseOne_waits {s : State} (h : (parseOne s).2 = .ok .wait) :
    (parseOne s).1 = s.skipGarbage ∧ s.skipGarbage.awaitsBytes := by
  rw [parseOne_eq] at h ⊢
  split at h
  case isTrue hmem =>
    rw [if_pos hmem]
    rcases parseCandidate_cases s.skipGarbage with ⟨hwait, hinc⟩ | ⟨hne, -⟩
    · exact ⟨by rw [hwait], .inr ⟨State.skipGarbage_head hmem, hinc⟩⟩
    · exact absurd h hne
  case isFalse hmem =>
    rw [if_neg hmem]
    refine ⟨rfl, .inl ?_⟩
    rw [State.skipGarbage_rb, State.garbageLength_of_notMem hmem, ← State.rb_length, List.drop_length]

/-- When a PARSE_STEP does not wait, bytes from the first `START` on were taken out and handled. -/
theorem parseOne_takes {s : State} (h : (parseOne s).2 ≠ .ok .wait) :
    ∃ n, 1 ≤ n ∧ n ≤ s.skipGarbage.rb.length ∧ (s.skipGarbage.dropHead n).writesOneFrame (parseOne s).1 := by
  rw [parseOne_eq] at h ⊢
  split at h
  case isTrue hmem =>
    rw [if_pos hmem]
    rcases parseCandidate_cases s.skipGarbage with ⟨hwait, -⟩ | ⟨-, htakes⟩
    · exact absurd (congrArg Prod.snd hwait) h
    · exact htakes
  case isFalse => exact absurd rfl h

/-- An answer seen in the return port is the answer given. -/
theorem conclude_turn {p : State × Reply Turn} {t : State} {a : Turn} (h : conclude .turn p = .next t)
    (ha : t.ret = .turn a) : p.2 = .ok a ∧ t = p.1.setRet (.turn a) := by
  obtain ⟨s, b | f | r⟩ := p <;> cases h <;> cases ha
  exact ⟨rfl, rfl⟩

theorem exec_parseStep_of_awaitsBytes {s : State} (h : s.awaitsBytes) :
    exec .parseStep s = .next (s.setRet (.turn .wait)) := by
  have hwait : parseOne s = (s, .ok .wait) := by
    rcases h with hnil | ⟨hstart, hinc⟩
    · exact if_pos (s.rb_eq_nil.1 hnil)
    · rw [parseOne_of_start hstart, parseCandidate_incomplete hinc]
  show conclude .turn (parseOne s) = _
  rw [hwait, conclude_ok]

/-! ### Frames -/

theorem State.wrote_rb (s : State) (f : Bytes) : (s.wrote f).rb = s.rb := rfl

/-- A bad frame is logged and answered with a negative frame (R187). -/
theorem sendNegative_after_event {s : State} (id : Byte) (e : Event) (hw : s.writable) :
    thenContinue (sendNegative id (s.emit e)) = ((s.emit e).wrote (wrapFrame s.cfg id []), .ok .cont) :=
  congrArg thenContinue (txWrite_taken (s := s.emit e) hw)

theorem handleFrame_bad {s : State} {id crc : Byte} {payload : Bytes} (h : crc ≠ crc8 id payload) (hw : s.writable) :
    handleFrame id payload crc s = ((s.emit (.crcMismatch id)).wrote (wrapFrame s.cfg id []), .ok .cont) := by
  rw [handleFrame, if_neg h.symm]
  exact sendNegative_after_event id (.crcMismatch id) hw

theorem handleFrame_good (id : Byte) (payload : Bytes) (s : State) :
    handleFrame id payload (crc8 id payload) s = handlePayload id payload s := by
  rw [handleFrame, if_pos rfl]
  rfl

/-- A received empty frame with a good CRC is RETRANSMIT, and answers CONTINUE (R188). -/
theorem retransmit_continues {s : State} (id : Byte) (hw : s.writable) :
    ∃ u, exec (.retransmit id) s = .next u ∧
      conclude .turn (handlePayload id [] s) = .next { u with ret := .turn .cont } := by
  obtain ⟨t, ht⟩ : ∃ t, resend id s = (t, .ok ()) := by
    cases hf : s.histAt id.toNat with
    | none => exact ⟨_, resend_unknown hf⟩
    | some f => exact ⟨_, resend_taken hf hw⟩
  exact ⟨t.setRet .none, congrArg (conclude fun _ => .none) ht, congrArg (conclude .turn ∘ thenContinue) ht⟩

/-- A frame's instruction leaves the ring buffer alone. -/
theorem exec_frameInstr_ring (id : Byte) (payload : Bytes) (crc : Byte) (s : State) :
    ∃ t, exec (frameInstr id payload crc) s = .next t ∧ t.ring = s.ring := by
  rw [exec_frameInstr]
  obtain ⟨r, hr⟩ := conclude_next .turn (handleFrame id payload crc s)
  exact ⟨_, hr, (handleUnwrapped_writesOneFrame _ s).1⟩

theorem State.dropHead_all {s : State} {n : Nat} (hle : s.rbHead ≤ s.rbTail) (hn : n ≤ s.rbSize)
    (h : s.rb.drop n = []) : s.dropHead n = { s with rbHead := 0, rbTail := 0 } := by
  have hall : n = s.rbSize := Nat.le_antisymm hn (by simpa using List.drop_eq_nil_iff.1 h)
  rw [hall, State.dropHead_drains hle]

end Sys2Proof.Machine

namespace Sys2Proof

/-- What the decoder has found when it refuses a frame for its escapes (R96). -/
theorem decodeFrame_badEscape {c : Params} {bs : Bytes} (h : decodeFrame c bs = .reject .badEscape) :
    bs.head? = some c.start ∧ ∃ len n, acceptedLen c (bs.getD 1 0) (bs.getD 2 0) = some len ∧
      physSpan c bs len = some n ∧ unescape c ((bs.take n).drop 4) = none := by
  unfold decodeFrame at h
  split at h
  · cases h
  split at h
  · cases h
  split at h
  · cases h
  split at h
  · cases h
  split at h
  · exact ⟨not_not.1 ‹_›, _, _, ‹_›, ‹_›, ‹_›⟩
  · cases h

/-- UNWRAP of a whole span whose escapes are bad answers its id byte (R149). -/
theorem unwrap_span_badEscape {c : Params} {bs : Bytes} {len n : Nat} (hn : physSpan c bs len = some n)
    (h : unescape c ((bs.take n).drop 4) = none) : unwrap c (bs.take n) = .badEscape (bs.getD 3 0) := by
  obtain ⟨h5, hle⟩ := Machine.physSpan_le hn
  rw [unwrap, h, frameByte_take (by omega) hle]

end Sys2Proof
end

section
/-! The receive path: RX_CHUNK, PARSE_STEP and received frames (43_receive_path.md R180 to R198). -/

namespace Sys2Proof.Machine

/-- Settles O32: RB.APPEND, then the mark of the RX_CHUNK in progress. -/
theorem receiveChunkAppendsItsBytes : Obligations.ReceiveChunkAppendsItsBytes := by
  unfold Obligations.ReceiveChunkAppendsItsBytes
  intro s bytes ⟨hle, _⟩ hbusy
  rw [State.rb_length]
  constructor
  · intro hfit
    have hexec : exec (.rxChunk bytes) s = .next (((s.pushTail bytes).setBusy true).setRet .none) := by
      simp [exec, execRxChunk, hbusy, ringAppend_fits hfit, finish]
    exact ⟨_, hexec, s.pushTail_rb bytes hle,
      congrArg (fun u : State => (u.setBusy true).setRet .none) (s.pushTail_ringOnly bytes)⟩
  · intro hover
    have hexec : exec (.rxChunk bytes) s = finish (s.takeFault (.ringOverflow s.rbSize bytes.length))
        (.fault (.ringOverflow s.rbSize bytes.length)) := by
      simp [exec, execRxChunk, hbusy, ringAppend_overflows hover]
    exact hexec

/-- Settles O38: phase 6 is the CRC check; a good frame goes on as its payload does. -/
theorem receivedFramesAreCheckedThenHandled : Obligations.ReceivedFramesAreCheckedThenHandled := by
  unfold Obligations.ReceivedFramesAreCheckedThenHandled
  intro s id crc st tail hw
  refine ⟨fun h => congrArg (conclude .turn) (handleFrame_bad h hw),
    fun h => congrArg (conclude .turn) (handleFrame_bad h hw), ?_, ?_⟩
  · obtain ⟨r, hr⟩ := conclude_next .turn (dispatchPayload id st tail s)
    exact ⟨_, (congrArg (conclude .turn) (handleFrame_good id (st :: tail) s)).trans hr, hr⟩
  · obtain ⟨u, hu, hcont⟩ := retransmit_continues id hw
    exact ⟨u, (congrArg (conclude .turn) (handleFrame_good id [] s)).trans hcont, hu⟩

/-- Settles O39: nothing before a `START`, and the candidate is incomplete. -/
theorem parseStepWaitsForMoreBytes : Obligations.ParseStepWaitsForMoreBytes := by
  unfold Obligations.ParseStepWaitsForMoreBytes
  exact fun s h => exec_parseStep_of_awaitsBytes h

/-- Settles O40: WAIT leaves what awaits bytes, and on that a PARSE_STEP does nothing. -/
theorem waitIsIdempotent : Obligations.WaitIsIdempotent := by
  unfold Obligations.WaitIsIdempotent
  intro s t hstep hret
  obtain ⟨hanswer, ht⟩ := conclude_turn (p := parseOne s) hstep hret
  obtain ⟨hskip, hawaits⟩ := parseOne_waits hanswer
  rw [hskip] at ht
  subst ht
  refine ⟨hawaits, exec_parseStep_of_awaitsBytes hawaits, s.skipGarbage_rb, ?_⟩
  exact congrArg (State.setRet · (.turn .wait)) s.skipGarbage_frame

/-- Settles O41: the first `START` is found after `g`, or not at all. -/
theorem garbageIsDiscarded : Obligations.GarbageIsDiscarded := by
  unfold Obligations.GarbageIsDiscarded
  intro s g rest ⟨hle, _⟩ hg hstart
  have hpos : g.length ≠ 0 := mt List.length_eq_zero_iff.1 hg
  constructor
  · intro hrb
    have hlen : s.garbageLength = s.rbSize := State.garbageLength_of_notMem (by rwa [hrb])
    have hsize : s.rbSize = g.length := by rw [← State.rb_length, hrb]
    have hskip : s.skipGarbage = { s with rbHead := 0, rbTail := 0, ev := s.ev ++ [.garbage g.length] } := by
      rw [State.skipGarbage, hlen, if_neg (hsize ▸ hpos), State.dropHead_drains hle, hsize]
      rfl
    have hone : parseOne s = (s.skipGarbage, .ok .wait) := by rw [parseOne_eq, hrb, if_neg hstart]
    refine ⟨s.skipGarbage.setRet (.turn .wait), congrArg (conclude .turn) hone, ?_, ?_⟩
    · rw [State.setRet_rb, State.skipGarbage_rb, hlen, ← State.rb_length, List.drop_length]
    · rw [hskip]
      rfl
  · intro hrb
    have hlen : s.garbageLength = g.length := by
      rw [State.garbageLength, hrb, List.idxOf_append_of_notMem hstart, List.idxOf_cons_self, Nat.add_zero]
    have hlt : g.length < s.rbSize := by rw [← State.rb_length, hrb]; simp
    have hskip : s.skipGarbage = { s with rbHead := s.rbHead + g.length, ev := s.ev ++ [.garbage g.length] } := by
      rw [State.skipGarbage, hlen, if_neg hpos, State.dropHead_of_lt hlt]
      rfl
    have hmem : s.cfg.start ∈ s.rb := by simp [hrb]
    have hsame : parseOne s = parseOne s.skipGarbage := by
      rw [parseOne_of_start (State.skipGarbage_head hmem), parseOne_eq, if_pos hmem]
    obtain ⟨r, hr⟩ := conclude_next .turn (parseOne s)
    refine ⟨s.skipGarbage, ?_, hskip, _, hr, (congrArg (conclude .turn) hsame.symm).trans hr⟩
    rw [State.skipGarbage_rb, hlen, hrb, List.drop_left]

/-- Settles O43: the span is dropped before UNWRAP finds the bad escape. -/
theorem badEscapeIsAnsweredLikeABadCrc : Obligations.BadEscapeIsAnsweredLikeABadCrc := by
  unfold Obligations.BadEscapeIsAnsweredLikeABadCrc
  intro s hw hreject
  obtain ⟨hstart, len, n, hl, hn, hbad⟩ := decodeFrame_badEscape hreject
  have hle := (physSpan_le hn).2
  have hle' : n ≤ s.rbSize := by simpa using hle
  obtain ⟨head, tail, hdrop⟩ : ∃ head tail, s.dropHead n = { s with rbHead := head, rbTail := tail } :=
    ⟨_, _, s.dropHead_eq_cursors n⟩
  have hw' : (s.dropHead n).writable := by rw [hdrop]; exact hw
  have hone : parseOne s = (((s.dropHead n).emit (.badEscape (s.rb.getD 3 0))).wrote
      (wrapFrame (s.dropHead n).cfg (s.rb.getD 3 0) []), .ok .cont) := by
    rw [parseOne_of_start hstart, parseCandidate_of_span hl hn, unwrap_span_badEscape hn hbad]
    exact sendNegative_after_event _ _ hw'
  refine ⟨_, len, n, hl, hn, congrArg (conclude .turn) hone, hle, ?_, ?_⟩
  · rw [State.setRet_rb, State.wrote_rb, State.emit_rb, s.dropHead_rb hle']
  · rw [hdrop]
    rfl

/-- Settles O44: a frame's instruction leaves the bytes after the frame in the buffer. -/
theorem parseStepRunsTheDecodedFrame : Obligations.ParseStepRunsTheDecodedFrame := by
  unfold Obligations.ParseStepRunsTheDecodedFrame
  intro s i rest ⟨hle, _⟩ hdec
  obtain ⟨n, hn, rfl, hexec⟩ := exec_parseStep_of_decoded hdec
  obtain ⟨-, -, len, -, body, -, -, -, rfl, -⟩ := decodeFrame_ok hdec
  obtain ⟨t, ht, hring⟩ := exec_frameInstr_ring (s.rb.getD 3 0) (body.take len) (body.getD len 0) (s.dropHead n)
  have hrb := s.dropHead_rb hn
  refine ⟨s.dropHead n, t, hrb, s.dropHead_eq_cursors n, fun hnil => ?_, ht, hexec.trans ht,
    (State.rb_of_ring hring).trans hrb⟩
  rw [State.dropHead_all hle hn hnil]
  exact ⟨rfl, rfl⟩

/-- Settles O45: CONTINUE is not WAIT, so a candidate was taken out after the bytes before it. -/
theorem continueConsumesAByte : Obligations.ContinueConsumesAByte := by
  unfold Obligations.ContinueConsumesAByte
  intro s t hstep hret
  obtain ⟨hanswer, rfl⟩ := conclude_turn (p := parseOne s) hstep hret
  obtain ⟨n, hpos, hn, hring, -⟩ := parseOne_takes (s := s) (by simp [hanswer])
  have hrest : (parseOne s).1.rb = s.rb.drop (s.garbageLength + n) := by
    rw [State.rb_of_ring hring, State.dropHead_rb _ (by simpa using hn), State.skipGarbage_rb, List.drop_drop]
  rw [State.skipGarbage_rb, List.length_drop] at hn
  exact ⟨s.garbageLength + n, by omega, by omega, hrest⟩

/-- Settles O46: the decoder reads the frame as it was written, and its CRC is the good one. -/
theorem echoedFrameIsTakenWhole : Obligations.EchoedFrameIsTakenWhole := by
  unfold Obligations.EchoedFrameIsTakenWhole
  intro s id payload hv ⟨hle, _⟩ hfit hrb
  have hdec : decodeFrame s.cfg s.rb = .ok (frameInstr id payload (crc8 id payload)) [] := by
    rw [hrb, wrapFrame]
    simpa using decodeFrame_frameBytes hv id (crc8 id payload) hfit []
  obtain ⟨n, hn, hnil, hexec⟩ := exec_parseStep_of_decoded hdec
  rw [State.dropHead_all hle hn hnil.symm] at hexec
  obtain ⟨t, ht, hring⟩ := exec_frameInstr_ring id payload (crc8 id payload) { s with rbHead := 0, rbTail := 0 }
  have hpayload : conclude .turn (handlePayload id payload { s with rbHead := 0, rbTail := 0 }) = .next t := by
    rw [← handleFrame_good, ← exec_frameInstr, ht]
  obtain ⟨-, hhead, htail, -⟩ := by simpa only [State.ring, Prod.mk.injEq] using hring
  refine ⟨t, hexec.trans ht, (State.rb_of_ring hring).trans rfl, hhead, htail, ?_, ?_⟩
  · rintro st tail rfl
    exact hpayload
  · rintro rfl hw
    obtain ⟨u, hu, hcont⟩ := retransmit_continues (s := { s with rbHead := 0, rbTail := 0 }) id hw
    exact ⟨u, hu, Host.Outcome.next.inj (hpayload.symm.trans hcont)⟩

/-- Settles O47: what is discarded or dropped writes nothing, and a frame is handled with one write at most. -/
theorem parseStepWritesAtMostOneFrame : Obligations.ParseStepWritesAtMostOneFrame := by
  unfold Obligations.ParseStepWritesAtMostOneFrame
  intro s t hstep
  obtain ⟨r, hr⟩ := conclude_next .turn (parseOne s)
  cases hr.symm.trans hstep
  rw [State.setRet_tx]
  by_cases hwait : (parseOne s).2 = .ok .wait
  · rw [(parseOne_waits hwait).1]
    exact .inl s.skipGarbage_tx
  · obtain ⟨n, -, -, -, htx⟩ := parseOne_takes hwait
    rwa [State.dropHead_tx, State.skipGarbage_tx] at htx

end Sys2Proof.Machine
end
